-- ==== Sys2Proof/Word.lean ====
section
/-! DEFINITION. The types of the hardware's values: bytes, the command word and its two
parts (R58), and the seven-field frame (R50). -/

namespace Sys2Proof

/-- A byte, bit 0 the least significant (R32). -/
abbrev Byte := BitVec 8

/-- The operation select `op[4:0]` of a command word (R58, `W_OP` of R5). -/
abbrev OpCode := BitVec 5

/-- The argument `arg[31:0]` of a command word (R58, `W_ARG` of R5). -/
abbrev Arg := BitVec 32

/-- A command word: `op` in bits 36 to 32, `arg` in bits 31 to 0 (R58). -/
abbrev CommandWord := BitVec 37

/-- The seven fields of a frame, B1 to B7, in the order of R50. Also the contents of the
frame buffer FB[1..7] (R18). -/
structure Frame where
  /-- B1 -/
  sync : Byte
  /-- B2 -/
  address : Byte
  /-- B3 -/
  command1 : Byte
  /-- B4 -/
  command2 : Byte
  /-- B5 -/
  data1 : Byte
  /-- B6 -/
  data2 : Byte
  /-- B7 -/
  checksum : Byte
deriving DecidableEq, Repr, Inhabited

end Sys2Proof
end

