-- ==== Sys2Proof/Machine/Flags.lean ====
section
/-! DEFINITION. The Bitfield Packer (41_bitfield_packer.md): the thirteen command flags and
their two bytes. The block has no condition flags (R12). -/

namespace Sys2Proof.Machine

/-- A set of the thirteen command flags of R100, one Bool each. -/
structure CommandFlags where
  focusNear : Bool := false
  irisOpen : Bool := false
  irisClose : Bool := false
  cameraOnOff : Bool := false
  autoManualScan : Bool := false
  sense : Bool := false
  right : Bool := false
  left : Bool := false
  up : Bool := false
  down : Bool := false
  zoomTele : Bool := false
  zoomWide : Bool := false
  focusFar : Bool := false
deriving DecidableEq, Repr

/-- The mask of a flag if it is in the set, else 0 (R101). -/
def maskIf (present : Bool) (mask : Byte) : Byte := if present then mask else 0#8

/-- Command-1 of `pack(F)` (R101). Bits 5 and 6 are reserved (R51). -/
def packCommand1 (f : CommandFlags) : Byte :=
  maskIf f.focusNear 0x01#8 ||| maskIf f.irisOpen 0x02#8 ||| maskIf f.irisClose 0x04#8
    ||| maskIf f.cameraOnOff 0x08#8 ||| maskIf f.autoManualScan 0x10#8 ||| maskIf f.sense 0x80#8

/-- Command-2 of `pack(F)` (R101). Bit 0 is always zero (R52). -/
def packCommand2 (f : CommandFlags) : Byte :=
  maskIf f.right 0x02#8 ||| maskIf f.left 0x04#8 ||| maskIf f.up 0x08#8 ||| maskIf f.down 0x10#8
    ||| maskIf f.zoomTele 0x20#8 ||| maskIf f.zoomWide 0x40#8 ||| maskIf f.focusFar 0x80#8

/-- `pack(F)` (R101). -/
def pack (f : CommandFlags) : Byte × Byte := (packCommand1 f, packCommand2 f)

end Sys2Proof.Machine
end

