-- ==== Sys2Proof/Config.lean ====
section
/-! DEFINITION. The parameters of R5: those the spec fixes as numbers, those it leaves OPEN
as constants without a body, and the free values of U15. -/

namespace Sys2Proof

/-- DESIGN CHOICE (log 5): how far `RAW_MAX` exceeds its least value 7. No body: nothing can
evaluate it. Safe. -/
opaque Config.rawMaxExtra : Nat

/-- `RAW_MAX`, the greatest length of a `sendRaw` operand: OPEN, at least 7 (R5, R178, D20). -/
def Config.rawMax : Nat := Config.rawMaxExtra + 7

/-- DESIGN CHOICE (log 4): how many failure indications the set `E` has beyond its first. No
body: nothing can evaluate it. -/
opaque Config.sinkErrorExtra : Nat

/-- The set `E` of failure indications of the Transport Sink: OPEN, non-empty, never
inspected (R5, R36, D15, U8). -/
abbrev SinkError := Fin (Config.sinkErrorExtra + 1)

/-- Free value (U15, log 6): what FB holds after the n-th draw, at a completion or an
asserted reset. No body. Safe. -/
opaque Config.deadFrame : Nat → Frame

/-- Free value (U15, log 6): the byte index after the n-th draw. No body. Safe. -/
opaque Config.deadIndex : Nat → Fin 8

/-- Free value (U15, log 6): what ACC holds after the n-th draw. No body. Safe. -/
opaque Config.deadAcc : Nat → Byte

/-- Greatest value of a speed field (R5, R57). -/
def Config.speedMax : Nat := 0x3F

/-- Greatest preset id (R5, R89). -/
def Config.presetMax : Nat := 255

/-- Greatest pan or tilt position, in hundredths of a degree (R5, R90). -/
def Config.panTiltMax : Nat := 35999

/-- Greatest zoom position (R5, R91). -/
def Config.zoomMax : Nat := 65535

/-- DESIGN CHOICE (log 8), unsafe: the strap `addr_i` in `State.reset`. The spec makes it an
input without a reset value (R211). -/
def Config.resetAddrStrap : Byte := 0x01#8

/-- DESIGN CHOICE (log 9), unsafe: `SINK_PRESENT` in `State.reset`. The spec makes it an
input without a reset value (R14); start-up sets it before reset is released (R213). -/
def Config.resetSinkPresent : Bool := true

end Sys2Proof
end

