-- ==== Sys2Proof/Machine/Operands.lean ====
section
/-! DEFINITION. The Value Scaler (40_value_scaler.md): saturation of integer operands, the
reading of a binary32 operand, the three real conversions, and the big-endian split of a
payload (R31). -/

namespace Sys2Proof.Machine

/-- `satU`: saturate an unsigned value at `hi` (00_scope.md 5.3, R92). -/
def satU (v hi : Nat) : Nat := min v hi

/-- `speed6` (R81). -/
def speed6 (s : Byte) : Byte := BitVec.ofNat 8 (satU s.toNat Config.speedMax)

/-- `preset8` (R89). -/
def preset8 (n : Arg) : Byte := BitVec.ofNat 8 (satU n.toNat Config.presetMax)

/-- `pos_pt`, a pan or tilt position (R90). -/
def posPT (n : Nat) : Nat := satU n Config.panTiltMax

/-- `pos_z`, a zoom position (R91). -/
def posZ (n : Nat) : Nat := satU n Config.zoomMax

/-- A position, at most 65535, as the 16-bit payload of a frame (R56). -/
def payload (u : Nat) : BitVec 16 := BitVec.ofNat 16 u

/-- `msb(u) = u[15:8]`, Data-1 (R31). -/
def msb (u : BitVec 16) : Byte := u.extractLsb' 8 8

/-- `lsb(u) = u[7:0]`, Data-2 (R31). -/
def lsb (u : BitVec 16) : Byte := u.extractLsb' 0 8

/-! ### Binary32 operands (R83; the layout is the spec's G1) -/

/-- The classes of a binary32 word (R83). -/
inductive F32Class where
  | nan
  | posInf
  | negInf
  | finite
deriving DecidableEq, Repr

/-- An extended real: a rational or an infinity (00_scope.md 5.3). -/
inductive ExtReal where
  | negInf
  | fin (x : ℚ)
  | posInf
deriving DecidableEq, Repr

/-- `sg = w[31]` (R83). -/
def f32Sign (w : Arg) : Bool := w.getLsbD 31

/-- `ex = w[30:23]` (R83). -/
def f32Exp (w : Arg) : Nat := (w.extractLsb' 23 8).toNat

/-- `fr = w[22:0]` (R83). -/
def f32Frac (w : Arg) : Nat := (w.extractLsb' 0 23).toNat

/-- `f32class` (R83). -/
def f32Class (w : Arg) : F32Class :=
  if f32Exp w = 255 then
    if f32Frac w ≠ 0 then .nan
    else if f32Sign w then .negInf
    else .posInf
  else .finite

/-- The magnitude of a finite word: `fr * 2^(-149)` if `ex = 0`, else
`(2^23 + fr) * 2^(ex - 150)` (R83). -/
def f32Magnitude (w : Arg) : ℚ :=
  if f32Exp w = 0 then mkRat (f32Frac w) (2 ^ 149)
  else mkRat ((2 ^ 23 + f32Frac w) * 2 ^ f32Exp w) (2 ^ 150)

/-- `f32val` (R83): none for a NaN. -/
def f32Val (w : Arg) : Option ExtReal :=
  match f32Class w with
  | .nan => none
  | .posInf => some .posInf
  | .negInf => some .negInf
  | .finite => some (.fin (if f32Sign w then -f32Magnitude w else f32Magnitude w))

/-! ### Scaling (R84 to R88), exact on rationals (R85) -/

/-- `clampR`: an infinity is outside every range (00_scope.md 5.3, R82). -/
def clampR (x : ExtReal) (lo hi : ℚ) : ℚ :=
  match x with
  | .negInf => lo
  | .posInf => hi
  | .fin q => if q < lo then lo else if hi < q then hi else q

/-- `rnd(x) = floor(x + 1/2)` for `x >= 0`, the only arguments that occur (R84). -/
def rnd (x : ℚ) : Nat := (⌊x + 1 / 2⌋ : ℤ).toNat

/-- `pan_units` (R86). -/
def panUnits (x : ExtReal) : Nat :=
  satU (rnd (clampR x 0 360 * 100)) Config.panTiltMax

/-- The value `tilt_units` rounds, by the sign of the clamped angle (R87). -/
def tiltScaled (a : ℚ) : ℚ :=
  if a < 0 then -a * 100
  else if 0 < a then 36000 - a * 100
  else 0

/-- `tilt_units` (R87, D12). -/
def tiltUnits (x : ExtReal) : Nat :=
  satU (rnd (tiltScaled (clampR x (-90) 90))) Config.panTiltMax

/-- `zoom_units` (R88). -/
def zoomUnits (x : ExtReal) : Nat :=
  rnd (clampR x 0 1 * 65535)

end Sys2Proof.Machine
end

