-- ==== Sys2Proof/Syntax.lean ====
section
/-! DEFINITION. The commands of R60, one constructor per row of the opcode table, each
carrying its typed operand (R58, R59). -/

namespace Sys2Proof

/-- A command. Operands: a speed byte (format S), an unsigned 32-bit integer (U), the 32 bits
of a binary32 real (F), a byte sequence of the raw-data channel (R), or none (N). -/
inductive Instr where
  /-- op 0x00, R134 -/
  | stopMotion
  /-- op 0x01, R126 -/
  | panLeft (speed : Byte)
  /-- op 0x02, R127 -/
  | panRight (speed : Byte)
  /-- op 0x03, R128 -/
  | tiltUp (speed : Byte)
  /-- op 0x04, R129 -/
  | tiltDown (speed : Byte)
  /-- op 0x05, R130 -/
  | moveLeftUp (speed : Byte)
  /-- op 0x06, R131 -/
  | moveRightUp (speed : Byte)
  /-- op 0x07, R132 -/
  | moveLeftDown (speed : Byte)
  /-- op 0x08, R133 -/
  | moveRightDown (speed : Byte)
  /-- op 0x09, R141 -/
  | zoomIn
  /-- op 0x0A, R142 -/
  | zoomOut
  /-- op 0x0B, R143 -/
  | focusIn
  /-- op 0x0C, R144 -/
  | focusOut
  /-- op 0x0D, R145 -/
  | irisIn
  /-- op 0x0E, R146 -/
  | irisOut
  /-- op 0x10, R150 -/
  | setPreset (id : Arg)
  /-- op 0x11, R151 -/
  | clearPreset (id : Arg)
  /-- op 0x12, R152 -/
  | callPreset (id : Arg)
  /-- op 0x13, `setPanPosition.u`, R156 -/
  | setPanPositionU (n : Arg)
  /-- op 0x14, `setTiltPosition.u`, R157 -/
  | setTiltPositionU (n : Arg)
  /-- op 0x15, `setZoomPosition.u`, R158 -/
  | setZoomPositionU (n : Arg)
  /-- op 0x16, R170 -/
  | queryPanPosition
  /-- op 0x17, R171 -/
  | queryTiltPosition
  /-- op 0x18, R172 -/
  | queryZoomPosition
  /-- op 0x19, `setPanPosition.deg`, R159 -/
  | setPanPositionDeg (x : Arg)
  /-- op 0x1A, `setTiltPosition.deg`, R160 -/
  | setTiltPositionDeg (x : Arg)
  /-- op 0x1B, `setZoomPosition.ratio`, R161 -/
  | setZoomPositionRatio (x : Arg)
  /-- op 0x1C, R176 -/
  | sendRaw (r : List Byte)
deriving DecidableEq, Repr

end Sys2Proof
end

