-- ==== Sys2Proof/Machine/State.lean ====
section
/-! DEFINITION. The state of the frame packer and of the ports it is attached to, as plain
data, and its reset value (10_state.md, 70_reset_and_hazards.md R211). -/

namespace Sys2Proof.Machine

/-- The spec's faults are completion statuses, after which the block goes on (R181, R190), so
nothing stops the machine with a fault and this type has no constructor (log 16). -/
inductive Fault where
deriving DecidableEq, Repr

/-- Why a step gives no meaning. -/
inductive Refusal where
  /-- Raised by `exec` for an instruction without a meaning. Safe. No arm raises it. -/
  | notModelled (mnemonic : String)
  /-- Raised by `sendRaw` for an operand longer than `RAW_MAX`: what the block does is not
  defined (R178, U6; log 5). Safe. -/
  | rawTooLong
  /-- Raised when reset is asserted while a hand-off awaits its answer: what the sink received
  is not defined, and a model refuses such runs (R216, D28, U9; log 11). Safe. -/
  | resetDuringHandOff
deriving DecidableEq, Repr

/-- The sink's answer to a hand-off (R36). -/
inductive SinkAnswer where
  | ok
  | fail (e : SinkError)
deriving DecidableEq, Repr

/-- The completion statuses (R180). -/
inductive Status where
  | ok
  | illegalOp
  | illegalOperand
  | sinkAbsent
  | sinkFail (e : SinkError)
deriving DecidableEq, Repr

/-- What the host drives, in order: a word put at the command port (R58), an operand marked
complete on the raw-data channel (R178), the reset input (R210), the strap `addr_i` (R13, R220)
or the strap `SINK_PRESENT` (R14, U16). When an operand reaches the channel, before or after
its `sendRaw` is accepted and among the other events, the spec leaves to the host: DESIGN
CHOICE (log 21), its place in this one list says it. -/
inductive HostEvent where
  | present (w : CommandWord)
  | deliverRaw (r : List Byte)
  | driveReset (asserted : Bool)
  | driveAddr (a : Byte)
  | driveSink (present : Bool)
deriving DecidableEq, Repr

/-- The transient state of R18 and R19. -/
structure Transient where
  /-- The frame buffer FB[1..7] (R18). -/
  fb : Frame
  /-- The byte index of FB: how many bytes are filled (R18). -/
  index : Fin 8
  /-- The checksum accumulator ACC (R19). -/
  acc : Byte
  /-- The model's own: how many times the fields above were left to free values (log 6). -/
  draws : Nat
deriving DecidableEq, Repr

/-- The block, the inputs it has not taken yet, and the record of its outputs. -/
structure State where
  /-- `ADDR`, the device address (R13). -/
  addr : Byte
  /-- The reset input `rst` is asserted (R210). -/
  rst : Bool
  /-- The strap `addr_i`, latched only at the release of reset (R210). -/
  addrStrap : Byte
  /-- The strap `SINK_PRESENT`, sampled at each hand-off (R14). -/
  sinkPresent : Bool
  /-- FB, its index and ACC (R18, R19). -/
  transient : Transient
  /-- The command held, operation and operand, while the block is busy (R20). -/
  inflight : Option CommandWord
  /-- The sequence at the sink port whose answer is awaited (R36, R38, R40). -/
  handOff : Option (List Byte)
  /-- The status presented by the last step, if it completed a command (R180, R181). -/
  statusPort : Option Status
  /-- The word the host presents at the command port and the block has not accepted (R58,
  R215). -/
  command : Option CommandWord
  /-- What the host drives next, in order (R43). -/
  events : List HostEvent
  /-- The sequences waiting on the raw-data channel, each closed by its end mark (R178), in
  the order the host delivered them (log 21). -/
  rawIn : List (List Byte)
  /-- The answers the sink has ready, one per hand-off, in order (R36, U8). -/
  answers : List SinkAnswer
  /-- The sequences handed to the sink so far, in order (R221). -/
  sinkTrace : List (List Byte)
  /-- The statuses presented so far, in order (R221). -/
  statusLog : List Status
deriving DecidableEq, Repr

/-- The machine right after reset with the straps at the values given (R211): `ADDR` latched,
FB and ACC cleared, not busy, both output ports idle. The empty inputs are a DESIGN CHOICE
(log 10). -/
def State.resetWith (addrStrap : Byte) (sinkPresent : Bool) : State where
  addr := addrStrap
  rst := false
  addrStrap := addrStrap
  sinkPresent := sinkPresent
  transient := ⟨⟨0#8, 0#8, 0#8, 0#8, 0#8, 0#8, 0#8⟩, 0, 0#8, 0⟩
  inflight := none
  handOff := none
  statusPort := none
  command := none
  events := []
  rawIn := []
  answers := []
  sinkTrace := []
  statusLog := []

/-- The machine right after reset. The straps' values are a DESIGN CHOICE (logs 8 and 9). -/
def State.reset : State := State.resetWith Config.resetAddrStrap Config.resetSinkPresent

end Sys2Proof.Machine
end

