-- ==== Sys2Proof/Machine/Ops.lean ====
section
/-! DEFINITION. The shared operations over the state: the Frame Builder and the Checksum
(42_frame_builder_checksum.md), the hand-off (R36, R116), completion and fault entry (R181,
R189), and reset (R210). The block has no memory, so these are its only data movements
(R30). -/

namespace Sys2Proof.Machine

/-! ### The frame buffer and the accumulator -/

/-- The seven bytes in frame order, byte 1 first (R33). -/
def frameBytes (f : Frame) : List Byte :=
  [f.sync, f.address, f.command1, f.command2, f.data1, f.data2, f.checksum]

/-- FB with byte `k + 1` written; the index 7 means that FB is full (R18). -/
def frameWrite (f : Frame) (k : Fin 8) (b : Byte) : Frame :=
  match k.val with
  | 0 => { f with sync := b }
  | 1 => { f with address := b }
  | 2 => { f with command1 := b }
  | 3 => { f with command2 := b }
  | 4 => { f with data1 := b }
  | 5 => { f with data2 := b }
  | 6 => { f with checksum := b }
  | _ => f

/-- Fill the next byte of FB (R18). -/
def pushByte (t : Transient) (b : Byte) : Transient :=
  { t with fb := frameWrite t.fb t.index b, index := t.index + 1 }

/-- `ACC <- (ACC + b) mod 256` (R114). -/
def addToAcc (t : Transient) (b : Byte) : Transient := { t with acc := t.acc + b }

/-- The checksum loop: ACC from 0 over B2 to B6 (R114). -/
def accumulate (t : Transient) : Transient :=
  [t.fb.address, t.fb.command1, t.fb.command2, t.fb.data1, t.fb.data2].foldl addToAcc
    { t with acc := 0#8 }

/-- `build` (R110) as the block does it: B1 to B6 in order, then the accumulation, then B7
last (R114, R115). B2 is `ADDR` (R112). -/
def State.buildFrame (c1 c2 d1 d2 : Byte) (s : State) : State :=
  let filled := [0xFF#8, s.addr, c1, c2, d1, d2].foldl pushByte { s.transient with index := 0 }
  let summed := accumulate filled
  { s with transient := pushByte summed summed.acc }

/-! ### Completion -/

/-- `st_code`, the three bits the status port carries (R180, D17). -/
def statusCode : Status → BitVec 3
  | .ok => 0#3
  | .illegalOp => 1#3
  | .illegalOperand => 2#3
  | .sinkAbsent => 3#3
  | .sinkFail _ => 4#3

/-- The contents of FB and ACC between commands, and while reset is asserted, are any value
(U15, R18, R211): free values (DESIGN CHOICE, log 6). -/
def discard (t : Transient) : Transient where
  fb := Config.deadFrame t.draws
  index := Config.deadIndex t.draws
  acc := Config.deadAcc t.draws
  draws := t.draws + 1

/-- `complete(st)` (R181): present the status, drop the command, be ready for the next. -/
def State.complete (st : Status) (s : State) : State :=
  { s with
    transient := discard s.transient
    inflight := none
    handOff := none
    statusPort := some st
    statusLog := s.statusLog ++ [st] }

/-- `raise F` (R181, R189): the completion of a command that handed nothing off. Nothing is
saved, no mode changes and control goes nowhere; the frame built so far is discarded (R184). -/
def State.raise (st : Status) (s : State) : State := s.complete st

/-- There is no return from a fault: after `raise` the block is ready (R190). -/
def State.ready (s : State) : Bool := s.inflight.isNone && s.handOff.isNone

/-! ### The hand-off -/

/-- The status that an answer of the sink gives, `e` unchanged (R37, R185). -/
def answerStatus : SinkAnswer → Status
  | .ok => .ok
  | .fail e => .sinkFail e

/-- `SinkSend(seq)`: the sequence is given to the sink whole (R35, R36, U17). -/
def State.sinkSend (seq : List Byte) (s : State) : State :=
  { s with handOff := some seq, sinkTrace := s.sinkTrace ++ [seq] }

/-- Take the sink's answer and complete; without one the block waits, and nothing changes
(R37, R38, U12). -/
def State.awaitAnswer (s : State) : State :=
  match s.answers with
  | [] => s
  | a :: rest => { s with answers := rest }.complete (answerStatus a)

/-- `emit(seq)` (R116). -/
def State.emit (seq : List Byte) (s : State) : State :=
  if s.sinkPresent then (s.sinkSend seq).awaitAnswer
  else s.raise .sinkAbsent

/-- The tail of every framed command: `emit(build(c1, c2, d1, d2))` (R110, R116). -/
def State.sendFrame (c1 c2 d1 d2 : Byte) (s : State) : State :=
  let built := s.buildFrame c1 c2 d1 d2
  built.emit (frameBytes built.transient.fb)

/-- A frame in the bitfield convention: bytes 3 and 4 from the packer, bytes 5 and 6 speeds
(R53, R55). -/
def State.sendFlags (f : CommandFlags) (d1 d2 : Byte) (s : State) : State :=
  s.sendFrame (pack f).1 (pack f).2 d1 d2

/-- A frame in the opcode convention: Command-1 = 0x00, Command-2 = the opcode, bytes 5 and 6
the big-endian payload (R53, R56, R31). -/
def State.sendOpcode (opcode : Byte) (u : BitVec 16) (s : State) : State :=
  s.sendFrame 0x00#8 opcode (msb u) (lsb u)

/-- A real form of a position setter: a NaN raises IllegalOperand before the sink is looked
at (R82, R183, R188); else `scale` gives the position to send (R94, R155). -/
def State.sendReal (opcode : Byte) (scale : ExtReal → Nat) (x : Arg) (s : State) : State :=
  match f32Val x with
  | none => s.raise .illegalOperand
  | some v => s.sendOpcode opcode (payload (scale v))

/-! ### Reset -/

/-- FB and ACC cleared (R211, D21). The index's 0 is a DESIGN CHOICE (log 7). -/
def clearTransient (t : Transient) : Transient :=
  { t with fb := ⟨0#8, 0#8, 0#8, 0#8, 0#8, 0#8, 0#8⟩, index := 0, acc := 0#8 }

/-- Reset is asserted: the command in progress is abandoned without a status (R216), and the
block hands nothing to the sink (R210). What FB, its index and ACC hold from then until the
release, the spec leaves open, since R211 gives values after reset only: DESIGN CHOICE (log 6),
they are free values. -/
def State.assertReset (s : State) : State :=
  { s with
    rst := true
    transient := discard s.transient
    inflight := none
    handOff := none
    statusPort := none }

/-- The release of reset (R210 to R212): `ADDR` latches the strap, FB and ACC are cleared,
both output ports are idle, and nothing is handed off. -/
def State.releaseReset (s : State) : State :=
  { s with
    rst := false
    addr := s.addrStrap
    transient := clearTransient s.transient
    inflight := none
    handOff := none
    statusPort := none }

end Sys2Proof.Machine
end

