-- ==== Sys2Proof/Machine/Lens.lean ====
section
/-! DEFINITION. The six lens commands (44_lens_ops.md, R140 to R146): one flag, no operand, no
speed. -/

namespace Sys2Proof.Machine

/-- `zoomIn` (R141). -/
def execZoomIn (s : State) : Host.Outcome State Fault Refusal :=
  .next (s.sendFlags { zoomTele := true } 0x00#8 0x00#8)

/-- `zoomOut` (R142). -/
def execZoomOut (s : State) : Host.Outcome State Fault Refusal :=
  .next (s.sendFlags { zoomWide := true } 0x00#8 0x00#8)

/-- `focusIn` (R143). -/
def execFocusIn (s : State) : Host.Outcome State Fault Refusal :=
  .next (s.sendFlags { focusNear := true } 0x00#8 0x00#8)

/-- `focusOut` (R144). -/
def execFocusOut (s : State) : Host.Outcome State Fault Refusal :=
  .next (s.sendFlags { focusFar := true } 0x00#8 0x00#8)

/-- `irisIn` (R145). -/
def execIrisIn (s : State) : Host.Outcome State Fault Refusal :=
  .next (s.sendFlags { irisOpen := true } 0x00#8 0x00#8)

/-- `irisOut` (R146). -/
def execIrisOut (s : State) : Host.Outcome State Fault Refusal :=
  .next (s.sendFlags { irisClose := true } 0x00#8 0x00#8)

end Sys2Proof.Machine
end

