-- ==== Sys2Proof/Machine/Motion.lean ====
section
/-! DEFINITION. The nine motion commands (43_motion_ops.md, R125 to R134): the packer's flags,
with the clamped speed in the data byte of its axis (R55). -/

namespace Sys2Proof.Machine

/-- `stopMotion` (R134): the empty flag set (R103). -/
def execStopMotion (s : State) : Host.Outcome State Fault Refusal :=
  .next (s.sendFlags {} 0x00#8 0x00#8)

/-- `panLeft` (R126). -/
def execPanLeft (speed : Byte) (s : State) : Host.Outcome State Fault Refusal :=
  .next (s.sendFlags { left := true } (speed6 speed) 0x00#8)

/-- `panRight` (R127). -/
def execPanRight (speed : Byte) (s : State) : Host.Outcome State Fault Refusal :=
  .next (s.sendFlags { right := true } (speed6 speed) 0x00#8)

/-- `tiltUp` (R128). -/
def execTiltUp (speed : Byte) (s : State) : Host.Outcome State Fault Refusal :=
  .next (s.sendFlags { up := true } 0x00#8 (speed6 speed))

/-- `tiltDown` (R129). -/
def execTiltDown (speed : Byte) (s : State) : Host.Outcome State Fault Refusal :=
  .next (s.sendFlags { down := true } 0x00#8 (speed6 speed))

/-- `moveLeftUp` (R130). -/
def execMoveLeftUp (speed : Byte) (s : State) : Host.Outcome State Fault Refusal :=
  .next (s.sendFlags { left := true, up := true } (speed6 speed) (speed6 speed))

/-- `moveRightUp` (R131). -/
def execMoveRightUp (speed : Byte) (s : State) : Host.Outcome State Fault Refusal :=
  .next (s.sendFlags { right := true, up := true } (speed6 speed) (speed6 speed))

/-- `moveLeftDown` (R132). -/
def execMoveLeftDown (speed : Byte) (s : State) : Host.Outcome State Fault Refusal :=
  .next (s.sendFlags { left := true, down := true } (speed6 speed) (speed6 speed))

/-- `moveRightDown` (R133). -/
def execMoveRightDown (speed : Byte) (s : State) : Host.Outcome State Fault Refusal :=
  .next (s.sendFlags { right := true, down := true } (speed6 speed) (speed6 speed))

end Sys2Proof.Machine
end

