-- ==== Sys2Proof/Machine/Position.lean ====
section
/-! DEFINITION. The six absolute position commands (46_position_ops.md, R155 to R161). -/

namespace Sys2Proof.Machine

/-- `setPanPosition.u` (R156). -/
def execSetPanPositionU (n : Arg) (s : State) : Host.Outcome State Fault Refusal :=
  .next (s.sendOpcode 0x4B#8 (payload (posPT n.toNat)))

/-- `setTiltPosition.u` (R157). -/
def execSetTiltPositionU (n : Arg) (s : State) : Host.Outcome State Fault Refusal :=
  .next (s.sendOpcode 0x4D#8 (payload (posPT n.toNat)))

/-- `setZoomPosition.u` (R158). -/
def execSetZoomPositionU (n : Arg) (s : State) : Host.Outcome State Fault Refusal :=
  .next (s.sendOpcode 0x4F#8 (payload (posZ n.toNat)))

/-- `setPanPosition.deg` (R159). -/
def execSetPanPositionDeg (x : Arg) (s : State) : Host.Outcome State Fault Refusal :=
  .next (s.sendReal 0x4B#8 (fun v => posPT (panUnits v)) x)

/-- `setTiltPosition.deg` (R160). -/
def execSetTiltPositionDeg (x : Arg) (s : State) : Host.Outcome State Fault Refusal :=
  .next (s.sendReal 0x4D#8 (fun v => posPT (tiltUnits v)) x)

/-- `setZoomPosition.ratio` (R161). -/
def execSetZoomPositionRatio (x : Arg) (s : State) : Host.Outcome State Fault Refusal :=
  .next (s.sendReal 0x4F#8 (fun v => posZ (zoomUnits v)) x)

end Sys2Proof.Machine
end

