-- ==== Sys2Proof/Machine/Preset.lean ====
section
/-! DEFINITION. The three preset commands (45_preset_ops.md, R149 to R152): the clamped id as the
payload, so Data-1 is 0x00 (R56). -/

namespace Sys2Proof.Machine

/-- `setPreset` (R150). -/
def execSetPreset (id : Arg) (s : State) : Host.Outcome State Fault Refusal :=
  .next (s.sendOpcode 0x03#8 ((preset8 id).setWidth 16))

/-- `clearPreset` (R151). -/
def execClearPreset (id : Arg) (s : State) : Host.Outcome State Fault Refusal :=
  .next (s.sendOpcode 0x05#8 ((preset8 id).setWidth 16))

/-- `callPreset` (R152). -/
def execCallPreset (id : Arg) (s : State) : Host.Outcome State Fault Refusal :=
  .next (s.sendOpcode 0x07#8 ((preset8 id).setWidth 16))

end Sys2Proof.Machine
end

