-- ==== Sys2Proof/Machine/Query.lean ====
section
/-! DEFINITION. The three position queries (47_query_ops.md, R169 to R173): a fixed frame; no reply
enters the block (R41, R173). -/

namespace Sys2Proof.Machine

/-- `queryPanPosition` (R170). -/
def execQueryPanPosition (s : State) : Host.Outcome State Fault Refusal :=
  .next (s.sendOpcode 0x51#8 0#16)

/-- `queryTiltPosition` (R171). -/
def execQueryTiltPosition (s : State) : Host.Outcome State Fault Refusal :=
  .next (s.sendOpcode 0x53#8 0#16)

/-- `queryZoomPosition` (R172). -/
def execQueryZoomPosition (s : State) : Host.Outcome State Fault Refusal :=
  .next (s.sendOpcode 0x55#8 0#16)

end Sys2Proof.Machine
end

