-- ==== Sys2Proof/Machine/Raw.lean ====
section
/-! DEFINITION. Raw pass-through (48_raw_passthrough.md, R176 to R179). -/

namespace Sys2Proof.Machine

/-- `sendRaw` (R176): the bytes as they are, in one hand-off, the empty sequence too (R179).
Longer than `RAW_MAX` is outside the spec (R178, U6; log 5). -/
def execSendRaw (r : List Byte) (s : State) : Host.Outcome State Fault Refusal :=
  if r.length ≤ Config.rawMax then .next (s.emit r)
  else .refused .rawTooLong

end Sys2Proof.Machine
end

