-- ==== Sys2Proof/Machine/Dispatch.lean ====
section
/-! DEFINITION. The meaning of every command of R60, one arm each. -/

namespace Sys2Proof.Machine

/-- One command, from the decoder's selection to its completion (R23). -/
def exec (i : Instr) (s : State) : Host.Outcome State Fault Refusal :=
  match i with
  | .stopMotion => Sys2Proof.Machine.execStopMotion s
  | .panLeft speed => Sys2Proof.Machine.execPanLeft speed s
  | .panRight speed => Sys2Proof.Machine.execPanRight speed s
  | .tiltUp speed => Sys2Proof.Machine.execTiltUp speed s
  | .tiltDown speed => Sys2Proof.Machine.execTiltDown speed s
  | .moveLeftUp speed => Sys2Proof.Machine.execMoveLeftUp speed s
  | .moveRightUp speed => Sys2Proof.Machine.execMoveRightUp speed s
  | .moveLeftDown speed => Sys2Proof.Machine.execMoveLeftDown speed s
  | .moveRightDown speed => Sys2Proof.Machine.execMoveRightDown speed s
  | .zoomIn => Sys2Proof.Machine.execZoomIn s
  | .zoomOut => Sys2Proof.Machine.execZoomOut s
  | .focusIn => Sys2Proof.Machine.execFocusIn s
  | .focusOut => Sys2Proof.Machine.execFocusOut s
  | .irisIn => Sys2Proof.Machine.execIrisIn s
  | .irisOut => Sys2Proof.Machine.execIrisOut s
  | .setPreset id => Sys2Proof.Machine.execSetPreset id s
  | .clearPreset id => Sys2Proof.Machine.execClearPreset id s
  | .callPreset id => Sys2Proof.Machine.execCallPreset id s
  | .setPanPositionU n => Sys2Proof.Machine.execSetPanPositionU n s
  | .setTiltPositionU n => Sys2Proof.Machine.execSetTiltPositionU n s
  | .setZoomPositionU n => Sys2Proof.Machine.execSetZoomPositionU n s
  | .queryPanPosition => Sys2Proof.Machine.execQueryPanPosition s
  | .queryTiltPosition => Sys2Proof.Machine.execQueryTiltPosition s
  | .queryZoomPosition => Sys2Proof.Machine.execQueryZoomPosition s
  | .setPanPositionDeg x => Sys2Proof.Machine.execSetPanPositionDeg x s
  | .setTiltPositionDeg x => Sys2Proof.Machine.execSetTiltPositionDeg x s
  | .setZoomPositionRatio x => Sys2Proof.Machine.execSetZoomPositionRatio x s
  | .sendRaw r => Sys2Proof.Machine.execSendRaw r s

end Sys2Proof.Machine
end

