-- ==== Sys2Proof/Decode.lean ====
section
/-! DEFINITION. The command decoder (R58 to R60, R62), the encoder written from the same
table, and the table word's decoding. Total on any word; it rejects by name. -/

namespace Sys2Proof

/-- Why a command word names no command yet. -/
inductive DecodeError where
  /-- `op` is 0x0F, 0x1D, 0x1E or 0x1F: no command (R62). The block answers with the status
  IllegalOp (R182). -/
  | illegalOp (op : OpCode)
  /-- `op` is `sendRaw`, and its operand has not come on the raw-data channel (R178): the
  block goes on collecting. -/
  | rawPending
deriving DecidableEq, Repr

/-- `op[4:0]`, bits 36 to 32 of the word (R58). -/
def opOf (w : CommandWord) : OpCode := w.extractLsb' 32 5

/-- `arg[31:0]`, bits 31 to 0 of the word (R58). -/
def argOf (w : CommandWord) : Arg := w.extractLsb' 0 32

/-- The speed operand of format S: `arg[7:0]`; `arg[31:8]` is ignored (R59, D6). -/
def speedOf (a : Arg) : Byte := a.extractLsb' 0 8

/-- The op of `sendRaw` (R60). -/
def sendRawOp : OpCode := 0x1C#5

/-- The command that `op` selects, with its operand (R59, R60). `raw` is the sequence at the
head of the raw-data channel, which only `sendRaw` reads. -/
def decodeParts (op : OpCode) (a : Arg) (raw : Option (List Byte)) : Except DecodeError Instr :=
  match op.toNat with
  | 0x00 => .ok .stopMotion
  | 0x01 => .ok (.panLeft (speedOf a))
  | 0x02 => .ok (.panRight (speedOf a))
  | 0x03 => .ok (.tiltUp (speedOf a))
  | 0x04 => .ok (.tiltDown (speedOf a))
  | 0x05 => .ok (.moveLeftUp (speedOf a))
  | 0x06 => .ok (.moveRightUp (speedOf a))
  | 0x07 => .ok (.moveLeftDown (speedOf a))
  | 0x08 => .ok (.moveRightDown (speedOf a))
  | 0x09 => .ok .zoomIn
  | 0x0A => .ok .zoomOut
  | 0x0B => .ok .focusIn
  | 0x0C => .ok .focusOut
  | 0x0D => .ok .irisIn
  | 0x0E => .ok .irisOut
  | 0x10 => .ok (.setPreset a)
  | 0x11 => .ok (.clearPreset a)
  | 0x12 => .ok (.callPreset a)
  | 0x13 => .ok (.setPanPositionU a)
  | 0x14 => .ok (.setTiltPositionU a)
  | 0x15 => .ok (.setZoomPositionU a)
  | 0x16 => .ok .queryPanPosition
  | 0x17 => .ok .queryTiltPosition
  | 0x18 => .ok .queryZoomPosition
  | 0x19 => .ok (.setPanPositionDeg a)
  | 0x1A => .ok (.setTiltPositionDeg a)
  | 0x1B => .ok (.setZoomPositionRatio a)
  | 0x1C =>
    match raw with
    | some r => .ok (.sendRaw r)
    | none => .error .rawPending
  | _ => .error (.illegalOp op)

/-- The command decoder: a word of the command port and the head of the raw-data channel. -/
def decode (w : CommandWord) (raw : Option (List Byte)) : Except DecodeError Instr :=
  decodeParts (opOf w) (argOf w) raw

/-- The `op` column of R60. -/
def Instr.opcode : Instr → OpCode
  | .stopMotion => 0x00#5
  | .panLeft _ => 0x01#5
  | .panRight _ => 0x02#5
  | .tiltUp _ => 0x03#5
  | .tiltDown _ => 0x04#5
  | .moveLeftUp _ => 0x05#5
  | .moveRightUp _ => 0x06#5
  | .moveLeftDown _ => 0x07#5
  | .moveRightDown _ => 0x08#5
  | .zoomIn => 0x09#5
  | .zoomOut => 0x0A#5
  | .focusIn => 0x0B#5
  | .focusOut => 0x0C#5
  | .irisIn => 0x0D#5
  | .irisOut => 0x0E#5
  | .setPreset _ => 0x10#5
  | .clearPreset _ => 0x11#5
  | .callPreset _ => 0x12#5
  | .setPanPositionU _ => 0x13#5
  | .setTiltPositionU _ => 0x14#5
  | .setZoomPositionU _ => 0x15#5
  | .queryPanPosition => 0x16#5
  | .queryTiltPosition => 0x17#5
  | .queryZoomPosition => 0x18#5
  | .setPanPositionDeg _ => 0x19#5
  | .setTiltPositionDeg _ => 0x1A#5
  | .setZoomPositionRatio _ => 0x1B#5
  | .sendRaw _ => sendRawOp

/-- The argument that carries a command's operand (R59). DESIGN CHOICE (log 19), safe: ignored bits are
written 0, which no rule reads (U14). -/
def Instr.argument : Instr → Arg
  | .panLeft v | .panRight v | .tiltUp v | .tiltDown v => v.setWidth 32
  | .moveLeftUp v | .moveRightUp v | .moveLeftDown v | .moveRightDown v => v.setWidth 32
  | .setPreset n | .clearPreset n | .callPreset n => n
  | .setPanPositionU n | .setTiltPositionU n | .setZoomPositionU n => n
  | .setPanPositionDeg x | .setTiltPositionDeg x | .setZoomPositionRatio x => x
  | .stopMotion | .zoomIn | .zoomOut | .focusIn | .focusOut | .irisIn | .irisOut => 0#32
  | .queryPanPosition | .queryTiltPosition | .queryZoomPosition | .sendRaw _ => 0#32

/-- The word `{op[4:0], arg[31:0]}` (R58). -/
def packWord (op : OpCode) (a : Arg) : CommandWord := (op ++ a : BitVec (5 + 32))

/-- The encoder: the command word of a command. The operand of `sendRaw` travels on the
raw-data channel, not in the word (R58, R178). -/
def encode (i : Instr) : CommandWord := packWord i.opcode i.argument

/-- The bits of `arg` that a command of this `op` reads, from the format column of R59 and
R60: `arg[7:0]` for S, all for U and F, none for N, R and the unassigned ops. -/
def operandBits (op : OpCode) : Arg :=
  if 0x01#5 ≤ op ∧ op ≤ 0x08#5 then 0x000000FF#32
  else if (0x10#5 ≤ op ∧ op ≤ 0x15#5) ∨ (0x19#5 ≤ op ∧ op ≤ 0x1B#5) then 0xFFFFFFFF#32
  else 0#32

/-- A word of the opcode table read as a command word. The table's numbers are the 37-bit
word itself, `op << 32 | arg` (R68); bits above it are not the port's. -/
def tableWord (nbits w : Nat) : CommandWord := BitVec.ofNat 37 (w % 2 ^ nbits)

/-- The instruction the decoder reads from a table word. No raw byte stands in the table, so
`sendRaw` gets the empty sequence, as the mark `raw_none` gives it (R178; log 14). -/
def decodeTableWord (nbits w : Nat) : Option Instr :=
  match decode (tableWord nbits w) (some []) with
  | .ok i => some i
  | .error _ => none

end Sys2Proof
end

