-- ==== Sys2Proof/Machine/Port.lean ====
section
/-! DEFINITION. What a step does before and instead of running a command: the command port
and its decoder (R58, R62, R215), the raw-data channel (R178), the sink's answer (R37, R38),
the straps (R13, R14, R220) and reset (R210, R216). -/

namespace Sys2Proof.Machine

/-- What one step is to do. -/
inductive Action where
  /-- Run a decoded command in this state. -/
  | run (i : Instr) (s : State)
  /-- Nothing is left to run: this is the state after the step. -/
  | settled (s : State)
  /-- The spec gives the step no meaning. -/
  | refuse (r : Refusal)
deriving DecidableEq, Repr

/-- A `sendRaw` takes its operand off the raw-data channel (R178); no other command looks at
the channel (R59). -/
def State.takeRaw (w : CommandWord) (s : State) : State :=
  if opOf w = sendRawOp then { s with rawIn := s.rawIn.tail } else s

/-- Decode the command the block holds and run it. An unassigned `op` raises IllegalOp before
anything else is looked at (R182, R188). While `sendRaw` has no operand yet, `pending`. -/
def State.issue (w : CommandWord) (pending : Action) (s : State) : Action :=
  match decode w s.rawIn.head? with
  | .ok i => .run i (s.takeRaw w)
  | .error (.illegalOp _) => .settled (s.raise .illegalOp)
  | .error .rawPending => pending

/-- The next host event is taken off the host's list. -/
def State.dropEvent (s : State) : State := { s with events := s.events.tail }

/-- The block accepts the word at its command port and is busy with it (R20, R215). -/
def State.accept (w : CommandWord) (s : State) : State :=
  { s with command := none, inflight := some w }

/-- The host puts a word at the command port, once the word before it has been accepted
(R215: a presented command waits and is not lost). -/
def State.presentWord (w : CommandWord) (s : State) : State :=
  match s.command with
  | none => { s.dropEvent with command := some w }
  | some _ => s

/-- The host delivers an operand on the raw-data channel, behind those that wait there (R178).
It waits until a `sendRaw` takes it (log 21). -/
def State.deliverRaw (r : List Byte) (s : State) : State :=
  { s.dropEvent with rawIn := s.rawIn ++ [r] }

/-- The reset input changes: asserted, it abandons a command that has handed nothing off
(R216, log 12), and is refused once a hand-off has begun (R216, D28, U9, log 11); released,
it ends the reset (R210). -/
def State.driveReset (asserted : Bool) (s : State) : Action :=
  if asserted then
    if s.handOff.isSome then .refuse .resetDuringHandOff
    else .settled s.dropEvent.assertReset
  else if s.rst then .settled s.dropEvent.releaseReset
  else .settled s.dropEvent

/-- The host's next event, taken when the block itself has nothing to do (logs 13 and 21). A
change of a strap changes the strap and nothing else (R220, U16). -/
def State.hostTurn (s : State) : Action :=
  match s.events with
  | [] => .settled s
  | .present w :: _ => .settled (s.presentWord w)
  | .deliverRaw r :: _ => .settled (s.deliverRaw r)
  | .driveAddr a :: _ => .settled { s.dropEvent with addrStrap := a }
  | .driveSink present :: _ => .settled { s.dropEvent with sinkPresent := present }
  | .driveReset asserted :: _ => s.driveReset asserted

/-- An idle block accepts the word at its command port, but not while reset is asserted
(R210, R215). -/
def State.whileIdle (s : State) : Action :=
  match s.command with
  | none => s.hostTurn
  | some w => if s.rst then s.hostTurn else (s.accept w).issue w (.settled (s.accept w))

/-- The status port presents a status for one cycle only (92 section 2.3). -/
def State.clearStatus (s : State) : State := { s with statusPort := none }

/-- Whose turn it is: the sink's answer if a hand-off awaits one, else the command held, else
the command port, else the host (log 13). -/
def State.turn (s : State) : Action :=
  match s.handOff, s.inflight with
  | some _, _ => if s.answers.isEmpty then s.hostTurn else .settled s.awaitAnswer
  | none, some w => s.issue w s.hostTurn
  | none, none => s.whileIdle

/-- What the next step does. -/
def State.nextAction (s : State) : Action := s.clearStatus.turn

/-- The command `w` stands at the command port of an idle block out of reset. If it is
`sendRaw`, the empty sequence is marked on the raw-data channel (R178; log 14). -/
def State.withCommand (w : CommandWord) (s : State) : State :=
  { s with
    rst := false
    command := some w
    inflight := none
    handOff := none
    rawIn := if opOf w = sendRawOp then [] :: s.rawIn else s.rawIn }

end Sys2Proof.Machine
end

