-- ==== Sys2Proof/Machine/Step.lean ====
section
/-! DEFINITION. One step of the machine, at the level of whole commands (R22, D1). -/

namespace Sys2Proof.Machine

/-- One step (R23, R43). -/
def step (s : State) : Host.Outcome State Fault Refusal :=
  match s.nextAction with
  | .run i s' => exec i s'
  | .settled s' => .next s'
  | .refuse r => .refused r

/-- `s` with the instruction of an opcode-table word at the command port, where the next step
takes its command (R58; log 10). -/
def State.withFetchWord (s : State) (nbits w : Nat) : State := s.withCommand (tableWord nbits w)

end Sys2Proof.Machine
end

