-- ==== Sys2Proof/WellFormed.lean ====
section
/-! DEFINITION. Which commands the spec lets a host present: every one but a `sendRaw` whose
operand is longer than `RAW_MAX` (R178). All other operands are bounded by their type. -/

namespace Sys2Proof

/-- A host must not present a `sendRaw` operand longer than `RAW_MAX` (R178, U6). A NaN or an
out-of-range operand is well formed: the block answers it with a status or a clamp. -/
def Instr.wellFormed : Instr → Bool
  | .sendRaw r => decide (r.length ≤ Config.rawMax)
  | .stopMotion | .panLeft _ | .panRight _ | .tiltUp _ | .tiltDown _ => true
  | .moveLeftUp _ | .moveRightUp _ | .moveLeftDown _ | .moveRightDown _ => true
  | .zoomIn | .zoomOut | .focusIn | .focusOut | .irisIn | .irisOut => true
  | .setPreset _ | .clearPreset _ | .callPreset _ => true
  | .setPanPositionU _ | .setTiltPositionU _ | .setZoomPositionU _ => true
  | .queryPanPosition | .queryTiltPosition | .queryZoomPosition => true
  | .setPanPositionDeg _ | .setTiltPositionDeg _ | .setZoomPositionRatio _ => true

end Sys2Proof
end

