-- ==== Sys2Proof/Safety.lean ====
section
/-! DEFINITION. The terms the statements use: the frame as arithmetic on numbers, the states a
command can leave, what a produced frame satisfies (R67), when a run has gone wrong (U7), and
the invariant of the machine. -/

namespace Sys2Proof.Machine

/-! ### Frames -/

/-- The seven bytes of a frame, the checksum written as the sum modulo 256 (R50, R113). -/
def frameOf (addr : Byte) (c1 c2 d1 d2 : Nat) : List Byte :=
  [0xFF, addr.toNat, c1, c2, d1, d2, (addr.toNat + c1 + c2 + d1 + d2) % 256].map (BitVec.ofNat 8)

/-- The 24 pairs (Command-1, Command-2) of R60. -/
def tablePairs : List (Nat × Nat) :=
  [(0x00, 0x00), (0x00, 0x04), (0x00, 0x02), (0x00, 0x08), (0x00, 0x10), (0x00, 0x0C),
   (0x00, 0x0A), (0x00, 0x14), (0x00, 0x12), (0x00, 0x20), (0x00, 0x40), (0x01, 0x00),
   (0x00, 0x80), (0x02, 0x00), (0x04, 0x00), (0x00, 0x03), (0x00, 0x05), (0x00, 0x07),
   (0x00, 0x4B), (0x00, 0x4D), (0x00, 0x4F), (0x00, 0x51), (0x00, 0x53), (0x00, 0x55)]

/-- What every frame of the block satisfies (R67): sync, address and checksum by `frameOf`; a
pair of the table; speeds of six bits where bit 0 of Command-2 is 0; Command-1 = 0 where it
is 1. -/
def IsTableFrame (addr : Byte) (seq : List Byte) : Prop :=
  ∃ c1 c2 d1 d2 : Nat, seq = frameOf addr c1 c2 d1 d2 ∧ (c1, c2) ∈ tablePairs ∧
    d1 < 256 ∧ d2 < 256 ∧ (c2 % 2 = 0 → d1 ≤ 0x3F ∧ d2 ≤ 0x3F) ∧ (c2 % 2 = 1 → c1 = 0)

/-! ### Commands -/

/-- A framed command: every command but `sendRaw` (R35). -/
def isFramed (i : Instr) : Prop := ∀ r, i ≠ .sendRaw r

/-- The command is a real form whose operand is a NaN (R183). -/
def operandIsNaN : Instr → Bool
  | .setPanPositionDeg x | .setTiltPositionDeg x | .setZoomPositionRatio x => (f32Val x).isNone
  | .stopMotion | .panLeft _ | .panRight _ | .tiltUp _ | .tiltDown _ => false
  | .moveLeftUp _ | .moveRightUp _ | .moveLeftDown _ | .moveRightDown _ => false
  | .zoomIn | .zoomOut | .focusIn | .focusOut | .irisIn | .irisOut => false
  | .setPreset _ | .clearPreset _ | .callPreset _ => false
  | .setPanPositionU _ | .setTiltPositionU _ | .setZoomPositionU _ => false
  | .queryPanPosition | .queryTiltPosition | .queryZoomPosition | .sendRaw _ => false

/-- The operation select values that name no command (R62). -/
def unassignedOps : List OpCode := [0x0F#5, 0x1D#5, 0x1E#5, 0x1F#5]

/-! ### The states a command can leave. `tr` is what FB, its index and ACC then hold. -/

/-- `seq` was handed off once, the sink answered `a`, and the command is complete (R37, R180,
R181). Everything else is as before. -/
def State.delivered (seq : List Byte) (a : SinkAnswer) (rest : List SinkAnswer) (tr : Transient)
    (s : State) : State :=
  { s with
    transient := tr
    inflight := none
    handOff := none
    statusPort := some (answerStatus a)
    answers := rest
    sinkTrace := s.sinkTrace ++ [seq]
    statusLog := s.statusLog ++ [answerStatus a] }

/-- `seq` was handed off, and the sink has not answered (R38). Everything else is as before. -/
def State.waiting (seq : List Byte) (tr : Transient) (s : State) : State :=
  { s with
    transient := tr
    handOff := some seq
    sinkTrace := s.sinkTrace ++ [seq] }

/-- The command ended with the status `st`, and nothing was handed off (R187, R189).
Everything else is as before. -/
def State.faulted (st : Status) (tr : Transient) (s : State) : State :=
  { s with
    transient := tr
    inflight := none
    handOff := none
    statusPort := some st
    statusLog := s.statusLog ++ [st] }

/-! ### Statuses and runs -/

/-- The statuses of a command that made its hand-off: OK and SinkFail (R180). -/
def statusHandedOff (st : Status) : Bool := statusCode st = 0#3 || statusCode st = 4#3

/-- A run in which SinkAbsent occurs has gone wrong: a usage error (R184, U7). -/
def State.goneWrong (s : State) : Bool := s.statusLog.contains .sinkAbsent

/-- A map of the set `E`, on an answer. -/
def mapAnswer (f : SinkError → SinkError) : SinkAnswer → SinkAnswer
  | .ok => .ok
  | .fail e => .fail (f e)

/-- A map of the set `E`, on a status. -/
def mapStatus (f : SinkError → SinkError) : Status → Status
  | .sinkFail e => .sinkFail (f e)
  | .ok => .ok
  | .illegalOp => .illegalOp
  | .illegalOperand => .illegalOperand
  | .sinkAbsent => .sinkAbsent

/-- A map of the set `E`, on every failure indication of a state. -/
def State.mapError (f : SinkError → SinkError) (s : State) : State :=
  { s with
    answers := s.answers.map (mapAnswer f)
    statusPort := s.statusPort.map (mapStatus f)
    statusLog := s.statusLog.map (mapStatus f) }

/-! ### Integer forms of the scaler's rounding (40_value_scaler.md, section 5) -/

/-- `m` of a finite word `m * 2^q` (R83). -/
def f32Mantissa (w : Arg) : Nat := if f32Exp w = 0 then f32Frac w else 2 ^ 23 + f32Frac w

/-- `-q` of a finite word `m * 2^q` with `q < 0`, else 0. -/
def f32Down (w : Arg) : Nat := if f32Exp w = 0 then 149 else 150 - f32Exp w

/-- `q` of a finite word `m * 2^q` with `q >= 0`, else 0. -/
def f32Up (w : Arg) : Nat := f32Exp w - 150

/-- `rnd(a * c)` in integers: `P * 2^q`, or `floor((P + 2^(-q-1)) / 2^(-q))`, with
`P = m * c`. -/
def roundedProduct (w : Arg) (c : Nat) : Nat :=
  if f32Down w = 0 then f32Mantissa w * c * 2 ^ f32Up w
  else (f32Mantissa w * c + 2 ^ (f32Down w - 1)) / 2 ^ f32Down w

/-! ### The invariant -/

/-- What every step keeps. -/
structure State.Inv (s : State) : Prop where
  /-- A hand-off belongs to a command the block holds (R20). -/
  handOff_held : s.handOff.isSome → s.inflight.isSome
  /-- A command held without a hand-off is a `sendRaw` collecting its operand (R178). -/
  collecting : ∀ w, s.inflight = some w → s.handOff = none → opOf w = sendRawOp
  /-- While reset is asserted no command is held (R210). -/
  reset_idle : s.rst = true → s.inflight = none
  /-- The sequence awaiting its answer is the last one handed to the sink (R38, R39). -/
  handOff_last : ∀ seq, s.handOff = some seq → s.sinkTrace.getLast? = some seq
  /-- During the hand-off of a framed command FB holds the bytes handed off, a frame of the
  table for `ADDR` (R40, R67). -/
  handOff_frame : ∀ w seq, s.inflight = some w → s.handOff = some seq → opOf w ≠ sendRawOp →
    seq = frameBytes s.transient.fb ∧ IsTableFrame s.addr seq
  /-- One hand-off for each status OK or SinkFail, and one for the answer awaited: none for a
  fault (R118, R180). -/
  handOff_count : s.sinkTrace.length =
    (s.statusLog.filter statusHandedOff).length + (if s.handOff.isSome then 1 else 0)

end Sys2Proof.Machine
end

