-- ==== Sys2Proof/Certificates/Slice0/Obligations.lean ====
section
/-! DEFINITION. The statements about the frame packer, for the provers. Each docstring names
the rules of spec/ it formalises. `tr` stands for what FB, its index and ACC hold after the
command: any value (U15), so no statement says more of it. -/

open Sys2Proof Sys2Proof.Machine

/-! ### The command word -/

/-- R58, R59, R60: the decoder gives back every command from its word, whatever the raw-data
channel holds, and `sendRaw` with the sequence on the channel. -/
def Obligations.EncodeThenDecodeGivesTheCommand : Prop :=
  ∀ (i : Instr) (raw : Option (List Byte)), (∀ r, i = .sendRaw r → raw = some r) →
    decode (encode i) raw = .ok i

/-- R59, R60, R68: a word that decodes is the encoding of its command in every bit that the
command's format does not ignore. That the encoder writes the ignored bits as 0 is the model's
choice (log 19, DESIGN CHOICE). -/
def Obligations.DecodedWordIsTheEncodingOfItsCommand : Prop :=
  ∀ (w : CommandWord) (raw : Option (List Byte)) (i : Instr), decode w raw = .ok i →
    encode i = packWord (opOf w) (argOf w &&& operandBits (opOf w)) ∧
    (∀ r, i = .sendRaw r → raw = some r)

/-- R59, U14: words that differ in ignored bits only decode alike. -/
def Obligations.DecodeIgnoresTheIgnoredBits : Prop :=
  ∀ (w w' : CommandWord) (raw : Option (List Byte)), opOf w = opOf w' →
    argOf w &&& operandBits (opOf w) = argOf w' &&& operandBits (opOf w) →
    decode w raw = decode w' raw

/-- R62: exactly the four unassigned operation select values name no command. -/
def Obligations.UnassignedOpsAreExactlyTheIllegalOnes : Prop :=
  ∀ (w : CommandWord) (raw : Option (List Byte)),
    decode w raw = .error (.illegalOp (opOf w)) ↔ opOf w ∈ unassignedOps

/-- R60, R61: words of 95_test_vectors.md, one of each family, decode to the commands they
stand for. -/
def Obligations.TestVectorWordsDecode : Prop :=
  decode 0x0100000020#37 none = .ok (.panLeft 32#8) ∧
  decode 0x0000000000#37 none = .ok .stopMotion ∧
  decode 0x09FFFFFFFF#37 none = .ok .zoomIn ∧
  decode 0x1000000005#37 none = .ok (.setPreset 5#32) ∧
  decode 0x1300008CA0#37 none = .ok (.setPanPositionU 36000#32) ∧
  decode 0x1942B40000#37 none = .ok (.setPanPositionDeg 0x42B40000#32) ∧
  decode 0x1600000000#37 none = .ok .queryPanPosition ∧
  decode 0x1C00000000#37 (some [0x12#8]) = .ok (.sendRaw [0x12#8])

/-! ### The Bitfield Packer and the Frame Builder -/

/-- R100, R101: each flag sets its own bit, the three bits without a flag are 0, and
different sets give different pairs. -/
def Obligations.PackerSetsExactlyTheNamedBits : Prop :=
  (∀ f : CommandFlags,
    (pack f).1.getLsbD 0 = f.focusNear ∧ (pack f).1.getLsbD 1 = f.irisOpen ∧
    (pack f).1.getLsbD 2 = f.irisClose ∧ (pack f).1.getLsbD 3 = f.cameraOnOff ∧
    (pack f).1.getLsbD 4 = f.autoManualScan ∧ (pack f).1.getLsbD 5 = false ∧
    (pack f).1.getLsbD 6 = false ∧ (pack f).1.getLsbD 7 = f.sense ∧
    (pack f).2.getLsbD 0 = false ∧ (pack f).2.getLsbD 1 = f.right ∧
    (pack f).2.getLsbD 2 = f.left ∧ (pack f).2.getLsbD 3 = f.up ∧
    (pack f).2.getLsbD 4 = f.down ∧ (pack f).2.getLsbD 5 = f.zoomTele ∧
    (pack f).2.getLsbD 6 = f.zoomWide ∧ (pack f).2.getLsbD 7 = f.focusFar) ∧
  ∀ f g : CommandFlags, pack f = pack g → f = g

/-- R110 to R113: whatever FB, the index and ACC held, FB then holds the frame of R50 with the
checksum of R113, and nothing but FB, the index and ACC changes. -/
def Obligations.FrameBuilderBuildsTheChecksummedFrame : Prop :=
  ∀ (s : State) (c1 c2 d1 d2 : Byte),
    frameBytes (s.buildFrame c1 c2 d1 d2).transient.fb =
      frameOf s.addr c1.toNat c2.toNat d1.toNat d2.toNat ∧
    ∃ tr, s.buildFrame c1 c2 d1 d2 = { s with transient := tr }

/-- R114: the accumulator starts from 0, whatever it held, and gives the sum modulo 256 of the
five bytes in whatever order they are added. -/
def Obligations.AccumulatorIsTheSumInAnyOrder : Prop :=
  ∀ (t : Transient) (bytes : List Byte),
    bytes.Perm [t.fb.address, t.fb.command1, t.fb.command2, t.fb.data1, t.fb.data2] →
    (bytes.foldl addToAcc { t with acc := 0#8 }).acc = (accumulate t).acc ∧
    (accumulate t).acc.toNat =
      (t.fb.address.toNat + t.fb.command1.toNat + t.fb.command2.toNat + t.fb.data1.toNat
        + t.fb.data2.toNat) % 256 ∧
    (accumulate t).fb = t.fb

/-! ### The Value Scaler -/

/-- R81, R89, R90, R91, R92: an integer operand in range is unchanged, and one above its range
gives the upper bound. -/
def Obligations.IntegerOperandsSaturate : Prop :=
  (∀ s : Byte, (speed6 s).toNat = if s.toNat ≤ 0x3F then s.toNat else 0x3F) ∧
  (∀ n : Arg, (preset8 n).toNat = if n.toNat ≤ 255 then n.toNat else 255) ∧
  (∀ n : Arg, (payload (posPT n.toNat)).toNat = if n.toNat ≤ 35999 then n.toNat else 35999) ∧
  (∀ n : Arg, (payload (posZ n.toNat)).toNat = if n.toNat ≤ 65535 then n.toNat else 65535)

/-- R84: `rnd` gives the nearest integer, and the larger one at a half. -/
def Obligations.RoundingIsToNearestHalfUp : Prop :=
  ∀ (x : ℚ) (n : Nat), 0 ≤ x → (rnd x = n ↔ (n : ℚ) - 1 / 2 ≤ x ∧ x < n + 1 / 2)

/-- R83: which words are NaN and infinities, and the order of the finite magnitudes: a finite
word's magnitude grows with its lower 31 bits, from 0. -/
def Obligations.Binary32WordsAreReadInOrder : Prop :=
  (∀ w : Arg, f32Val w = none ↔ 0x7F800000 < w.toNat % 2 ^ 31) ∧
  (∀ w : Arg, f32Val w = some .posInf ↔ w = 0x7F800000#32) ∧
  (∀ w : Arg, f32Val w = some .negInf ↔ w = 0xFF800000#32) ∧
  (∀ w : Arg, w.toNat < 0x7F800000 → f32Val w = some (.fin (f32Magnitude w))) ∧
  (∀ w : Arg, 2 ^ 31 ≤ w.toNat → w.toNat < 0xFF800000 →
    f32Val w = some (.fin (-f32Magnitude w))) ∧
  (∀ v w : Arg, v.toNat < w.toNat → w.toNat < 0x7F800000 → f32Magnitude v < f32Magnitude w) ∧
  f32Magnitude 0#32 = 0

/-- R86: pan units lie in 0 to 35999, do not fall as the angle grows, are 0 at and below 0
degrees, and 35999 at and above 360 degrees; in the domain they are the rounded hundredths,
bounded by 35999. -/
def Obligations.PanUnitsClampAndRound : Prop :=
  (∀ x, panUnits x ≤ 35999) ∧
  (∀ p q : ℚ, p ≤ q → panUnits (.fin p) ≤ panUnits (.fin q)) ∧
  (∀ q : ℚ, q ≤ 0 → panUnits (.fin q) = 0) ∧
  (∀ q : ℚ, 360 ≤ q → panUnits (.fin q) = 35999) ∧
  panUnits .negInf = 0 ∧ panUnits .posInf = 35999 ∧
  (∀ (q : ℚ) (n : Nat), 0 ≤ q → n ≤ 35998 →
    (panUnits (.fin q) = n ↔ (n : ℚ) - 1 / 2 ≤ q * 100 ∧ q * 100 < n + 1 / 2))

/-- R87: tilt units are 0 at 0, the rounded hundredths below the horizon, 36000 less the
hundredths above it, bounded by 35999; the ends of the domain and the infinities give 9000 and
27000; 9001 to 26999 are never produced; on each side of zero the result is monotone. -/
def Obligations.TiltUnitsMapAsymmetrically : Prop :=
  (∀ x, tiltUnits x ≤ 9000 ∨ (27000 ≤ tiltUnits x ∧ tiltUnits x ≤ 35999)) ∧
  tiltUnits (.fin 0) = 0 ∧
  (∀ q : ℚ, -90 ≤ q → q < 0 → tiltUnits (.fin q) = rnd (-q * 100)) ∧
  (∀ q : ℚ, 0 < q → q ≤ 90 → tiltUnits (.fin q) = min (rnd (36000 - q * 100)) 35999) ∧
  (∀ q : ℚ, q ≤ -90 → tiltUnits (.fin q) = 9000) ∧
  (∀ q : ℚ, 90 ≤ q → tiltUnits (.fin q) = 27000) ∧
  tiltUnits .negInf = 9000 ∧ tiltUnits .posInf = 27000 ∧
  (∀ p q : ℚ, p ≤ q → q < 0 → tiltUnits (.fin q) ≤ tiltUnits (.fin p)) ∧
  (∀ p q : ℚ, 0 < p → p ≤ q → tiltUnits (.fin q) ≤ tiltUnits (.fin p))

/-- R88: zoom units lie in 0 to 65535, do not fall as the ratio grows, and saturate at both
ends; in the domain they are the rounded product with 65535. -/
def Obligations.ZoomUnitsClampAndRound : Prop :=
  (∀ x, zoomUnits x ≤ 65535) ∧
  (∀ p q : ℚ, p ≤ q → zoomUnits (.fin p) ≤ zoomUnits (.fin q)) ∧
  (∀ q : ℚ, q ≤ 0 → zoomUnits (.fin q) = 0) ∧
  (∀ q : ℚ, 1 ≤ q → zoomUnits (.fin q) = 65535) ∧
  zoomUnits .negInf = 0 ∧ zoomUnits .posInf = 65535 ∧
  (∀ (q : ℚ) (n : Nat), 0 ≤ q → n ≤ 65534 →
    (zoomUnits (.fin q) = n ↔ (n : ℚ) - 1 / 2 ≤ q * 65535 ∧ q * 65535 < n + 1 / 2))

/-- R83 to R85 and section 5 of 40_value_scaler.md: the rounded product of a finite
operand's magnitude and an integer is the integer formula. -/
def Obligations.RoundedProductIsIntegerArithmetic : Prop :=
  ∀ (w : Arg) (c : Nat), f32Class w = .finite →
    rnd (f32Magnitude w * c) = roundedProduct w c

/-- R83 to R85, R87 and section 5 of 40_value_scaler.md: the rounded difference above the
horizon, in integers. -/
def Obligations.PositiveTiltIsIntegerArithmetic : Prop :=
  ∀ w : Arg, f32Class w = .finite → 0 < f32Magnitude w → f32Magnitude w ≤ 90 →
    0 < f32Down w ∧
    rnd (36000 - f32Magnitude w * 100) =
      (36000 * 2 ^ f32Down w - f32Mantissa w * 100 + 2 ^ (f32Down w - 1)) / 2 ^ f32Down w

/-- R94: the clamp of the unit form changes no scaled real operand. -/
def Obligations.SecondClampChangesNothing : Prop :=
  ∀ x, posPT (panUnits x) = panUnits x ∧ posPT (tiltUnits x) = tiltUnits x ∧
    posZ (zoomUnits x) = zoomUnits x

/-! ### The commands, with a sink that answers -/

/-- R134: `stopMotion` hands off its frame, whatever went before, and completes. -/
def Obligations.StopMotionDeliversTheNeutralFrame : Prop :=
  ∀ (s : State) (a : SinkAnswer) (rest : List SinkAnswer),
    s.sinkPresent = true → s.answers = a :: rest →
    ∃ tr, exec .stopMotion s = .next (s.delivered (frameOf s.addr 0x00 0x00 0x00 0x00) a rest tr)

/-- R126 to R129: the single-axis moves hand off their frames, the clamped speed in the data
byte of their axis, and complete. -/
def Obligations.SingleAxisMovesDeliverTheirFrames : Prop :=
  ∀ (s : State) (v : Byte) (a : SinkAnswer) (rest : List SinkAnswer),
    s.sinkPresent = true → s.answers = a :: rest →
    (∃ tr, exec (.panLeft v) s =
      .next (s.delivered (frameOf s.addr 0x00 0x04 (min v.toNat 0x3F) 0x00) a rest tr)) ∧
    (∃ tr, exec (.panRight v) s =
      .next (s.delivered (frameOf s.addr 0x00 0x02 (min v.toNat 0x3F) 0x00) a rest tr)) ∧
    (∃ tr, exec (.tiltUp v) s =
      .next (s.delivered (frameOf s.addr 0x00 0x08 0x00 (min v.toNat 0x3F)) a rest tr)) ∧
    (∃ tr, exec (.tiltDown v) s =
      .next (s.delivered (frameOf s.addr 0x00 0x10 0x00 (min v.toNat 0x3F)) a rest tr))

/-- R130 to R133: the combined moves hand off their frames, the one clamped speed in both data
bytes, and complete. -/
def Obligations.CombinedMovesDeliverTheirFrames : Prop :=
  ∀ (s : State) (v : Byte) (a : SinkAnswer) (rest : List SinkAnswer),
    s.sinkPresent = true → s.answers = a :: rest →
    (∃ tr, exec (.moveLeftUp v) s = .next (s.delivered
      (frameOf s.addr 0x00 0x0C (min v.toNat 0x3F) (min v.toNat 0x3F)) a rest tr)) ∧
    (∃ tr, exec (.moveRightUp v) s = .next (s.delivered
      (frameOf s.addr 0x00 0x0A (min v.toNat 0x3F) (min v.toNat 0x3F)) a rest tr)) ∧
    (∃ tr, exec (.moveLeftDown v) s = .next (s.delivered
      (frameOf s.addr 0x00 0x14 (min v.toNat 0x3F) (min v.toNat 0x3F)) a rest tr)) ∧
    (∃ tr, exec (.moveRightDown v) s = .next (s.delivered
      (frameOf s.addr 0x00 0x12 (min v.toNat 0x3F) (min v.toNat 0x3F)) a rest tr))

/-- R141 to R146: the lens commands hand off their frames, both data bytes 0, and complete. -/
def Obligations.LensCommandsDeliverTheirFrames : Prop :=
  ∀ (s : State) (a : SinkAnswer) (rest : List SinkAnswer),
    s.sinkPresent = true → s.answers = a :: rest →
    (∃ tr, exec .zoomIn s = .next (s.delivered (frameOf s.addr 0x00 0x20 0 0) a rest tr)) ∧
    (∃ tr, exec .zoomOut s = .next (s.delivered (frameOf s.addr 0x00 0x40 0 0) a rest tr)) ∧
    (∃ tr, exec .focusIn s = .next (s.delivered (frameOf s.addr 0x01 0x00 0 0) a rest tr)) ∧
    (∃ tr, exec .focusOut s = .next (s.delivered (frameOf s.addr 0x00 0x80 0 0) a rest tr)) ∧
    (∃ tr, exec .irisIn s = .next (s.delivered (frameOf s.addr 0x02 0x00 0 0) a rest tr)) ∧
    (∃ tr, exec .irisOut s = .next (s.delivered (frameOf s.addr 0x04 0x00 0 0) a rest tr))

/-- R150 to R152: the preset commands hand off their frames, Data-1 0 and Data-2 the clamped
id, and complete. -/
def Obligations.PresetCommandsDeliverTheirFrames : Prop :=
  ∀ (s : State) (id : Arg) (a : SinkAnswer) (rest : List SinkAnswer),
    s.sinkPresent = true → s.answers = a :: rest →
    (∃ tr, exec (.setPreset id) s =
      .next (s.delivered (frameOf s.addr 0x00 0x03 0x00 (min id.toNat 255)) a rest tr)) ∧
    (∃ tr, exec (.clearPreset id) s =
      .next (s.delivered (frameOf s.addr 0x00 0x05 0x00 (min id.toNat 255)) a rest tr)) ∧
    (∃ tr, exec (.callPreset id) s =
      .next (s.delivered (frameOf s.addr 0x00 0x07 0x00 (min id.toNat 255)) a rest tr))

/-- R156 to R158, R31: the unit position setters hand off their frames, the saturated position
big-endian in the data bytes, and complete. -/
def Obligations.UnitPositionSettersDeliverTheirFrames : Prop :=
  ∀ (s : State) (n : Arg) (a : SinkAnswer) (rest : List SinkAnswer),
    s.sinkPresent = true → s.answers = a :: rest →
    (∃ tr, exec (.setPanPositionU n) s = .next (s.delivered
      (frameOf s.addr 0x00 0x4B (min n.toNat 35999 / 256) (min n.toNat 35999 % 256)) a rest tr)) ∧
    (∃ tr, exec (.setTiltPositionU n) s = .next (s.delivered
      (frameOf s.addr 0x00 0x4D (min n.toNat 35999 / 256) (min n.toNat 35999 % 256)) a rest tr)) ∧
    (∃ tr, exec (.setZoomPositionU n) s = .next (s.delivered
      (frameOf s.addr 0x00 0x4F (min n.toNat 65535 / 256) (min n.toNat 65535 % 256)) a rest tr))

/-- R159 to R161, R31: the real position setters hand off, for an operand that is no NaN, the
frame of the scaled position, and complete. -/
def Obligations.RealPositionSettersDeliverTheirFrames : Prop :=
  ∀ (s : State) (w : Arg) (x : ExtReal) (a : SinkAnswer) (rest : List SinkAnswer),
    s.sinkPresent = true → s.answers = a :: rest → f32Val w = some x →
    (∃ tr, exec (.setPanPositionDeg w) s = .next (s.delivered
      (frameOf s.addr 0x00 0x4B (panUnits x / 256) (panUnits x % 256)) a rest tr)) ∧
    (∃ tr, exec (.setTiltPositionDeg w) s = .next (s.delivered
      (frameOf s.addr 0x00 0x4D (tiltUnits x / 256) (tiltUnits x % 256)) a rest tr)) ∧
    (∃ tr, exec (.setZoomPositionRatio w) s = .next (s.delivered
      (frameOf s.addr 0x00 0x4F (zoomUnits x / 256) (zoomUnits x % 256)) a rest tr))

/-- R170 to R172: the queries hand off their fixed frames and complete at the sink's answer,
without a reply. -/
def Obligations.QueriesDeliverTheirFrames : Prop :=
  ∀ (s : State) (a : SinkAnswer) (rest : List SinkAnswer),
    s.sinkPresent = true → s.answers = a :: rest →
    (∃ tr, exec .queryPanPosition s =
      .next (s.delivered (frameOf s.addr 0x00 0x51 0x00 0x00) a rest tr)) ∧
    (∃ tr, exec .queryTiltPosition s =
      .next (s.delivered (frameOf s.addr 0x00 0x53 0x00 0x00) a rest tr)) ∧
    (∃ tr, exec .queryZoomPosition s =
      .next (s.delivered (frameOf s.addr 0x00 0x55 0x00 0x00) a rest tr))

/-- R176, R177, R179: `sendRaw` hands off its bytes as they are, the empty sequence too, and
completes. -/
def Obligations.SendRawDeliversItsBytesUnchanged : Prop :=
  ∀ (s : State) (r : List Byte) (a : SinkAnswer) (rest : List SinkAnswer),
    s.sinkPresent = true → s.answers = a :: rest → r.length ≤ Config.rawMax →
    ∃ tr, exec (.sendRaw r) s = .next (s.delivered r a rest tr)

/-- R65: for an operand that is no NaN, a real form does what the unit form does with the
scaled operand. -/
def Obligations.RealFormsAreUnitFormsOfTheScaledOperand : Prop :=
  ∀ (s : State) (w : Arg) (x : ExtReal), f32Val w = some x →
    exec (.setPanPositionDeg w) s =
      exec (.setPanPositionU (BitVec.ofNat 32 (panUnits x))) s ∧
    exec (.setTiltPositionDeg w) s =
      exec (.setTiltPositionU (BitVec.ofNat 32 (tiltUnits x))) s ∧
    exec (.setZoomPositionRatio w) s =
      exec (.setZoomPositionU (BitVec.ofNat 32 (zoomUnits x))) s

/-! ### The commands, without an answer or without a hand-off -/

/-- R183, R188: a NaN operand faults with IllegalOperand, with a sink or without, and nothing
is handed off. -/
def Obligations.NaNOperandsFaultBeforeTheSink : Prop :=
  ∀ (s : State) (w : Arg), f32Val w = none →
    (∃ tr, exec (.setPanPositionDeg w) s = .next (s.faulted .illegalOperand tr)) ∧
    (∃ tr, exec (.setTiltPositionDeg w) s = .next (s.faulted .illegalOperand tr)) ∧
    (∃ tr, exec (.setZoomPositionRatio w) s = .next (s.faulted .illegalOperand tr))

/-- R184, R188: without a sink every command whose operand is no NaN, `sendRaw` too, faults
with SinkAbsent, and nothing is handed off. -/
def Obligations.WithoutSinkEveryCommandFaults : Prop :=
  ∀ (i : Instr) (s : State), s.sinkPresent = false → i.wellFormed = true →
    operandIsNaN i = false → ∃ tr, exec i s = .next (s.faulted .sinkAbsent tr)

/-- R38: with a sink that has not answered, a command that reaches its hand-off hands off the
same bytes as with an answer, and waits without a status. -/
def Obligations.UnansweredHandOffLeavesTheCommandWaiting : Prop :=
  ∀ (i : Instr) (s : State), s.sinkPresent = true → s.answers = [] → i.wellFormed = true →
    operandIsNaN i = false →
    ∃ seq tr, exec i s = .next (s.waiting seq tr) ∧
      ∀ a rest, ∃ tr', exec i { s with answers := a :: rest } =
        .next ({ s with answers := a :: rest }.delivered seq a rest tr')

/-- R178, U6; the refusal is the model's (log 5): `exec` refuses a `sendRaw` operand longer
than `RAW_MAX`, and nothing else. -/
def Obligations.OnlyAnOverlongRawOperandIsRefused : Prop :=
  ∀ (i : Instr) (s : State) (r : Refusal),
    exec i s = .refused r ↔
      r = .rawTooLong ∧ ∃ bytes, i = .sendRaw bytes ∧ Config.rawMax < bytes.length

/-! ### What holds of every command -/

/-- R66, R67: whatever a framed command hands off is a frame of the table for `ADDR`. -/
def Obligations.EveryFramedHandOffIsATableFrame : Prop :=
  ∀ (i : Instr) (s t : State), isFramed i → exec i s = .next t →
    t.sinkTrace = s.sinkTrace ∨
    ∃ seq, t.sinkTrace = s.sinkTrace ++ [seq] ∧ IsTableFrame s.addr seq

/-- R13, R195: no command writes `ADDR`, a strap, the reset input or an input queue other than
the sink's answers. -/
def Obligations.NoCommandWritesTheAddressOrAnInput : Prop :=
  ∀ (i : Instr) (s t : State), exec i s = .next t →
    t.addr = s.addr ∧ t.rst = s.rst ∧ t.addrStrap = s.addrStrap ∧
    t.sinkPresent = s.sinkPresent ∧ t.command = s.command ∧ t.events = s.events ∧
    t.rawIn = s.rawIn

/-- R35, R37, R118, R180: a command makes one hand-off, takes the sink's answer and completes
with the status of that answer, OK or SinkFail; or makes one and, since there is no answer,
awaits it without a status; or makes none, takes no answer, and completes with a fault. -/
def Obligations.OneHandOffOrAFaultWithNone : Prop :=
  ∀ (i : Instr) (s t : State), exec i s = .next t →
    (∃ seq a rest, s.answers = a :: rest ∧ t.answers = rest ∧
      t.sinkTrace = s.sinkTrace ++ [seq] ∧ t.statusLog = s.statusLog ++ [answerStatus a] ∧
      t.statusPort = some (answerStatus a) ∧ statusHandedOff (answerStatus a) = true ∧
      t.handOff = none ∧ t.inflight = none) ∨
    (∃ seq, s.answers = [] ∧ t.answers = [] ∧ t.sinkTrace = s.sinkTrace ++ [seq] ∧
      t.statusLog = s.statusLog ∧ t.statusPort = s.statusPort ∧ t.handOff = some seq ∧
      t.inflight = s.inflight) ∨
    (∃ st, t.answers = s.answers ∧ t.sinkTrace = s.sinkTrace ∧
      t.statusLog = s.statusLog ++ [st] ∧ t.statusPort = some st ∧
      statusHandedOff st = false ∧ t.handOff = none ∧ t.inflight = none)

/-- R21, R39: from any two states with the same address, sink strap and sink answers, whatever
was done before, a command hands off the same bytes and gives the same statuses. -/
def Obligations.CommandsDependOnNothingEarlier : Prop :=
  ∀ (i : Instr) (s s' t : State), s.addr = s'.addr → s.sinkPresent = s'.sinkPresent →
    s.answers = s'.answers → exec i s = .next t →
    ∃ t' seqs sts, exec i s' = .next t' ∧
      t.sinkTrace = s.sinkTrace ++ seqs ∧ t'.sinkTrace = s'.sinkTrace ++ seqs ∧
      t.statusLog = s.statusLog ++ sts ∧ t'.statusLog = s'.statusLog ++ sts ∧
      t.answers = t'.answers

/-- R177: `sendRaw` does not read `ADDR`: with another address it does the same. -/
def Obligations.SendRawDoesNotReadTheAddress : Prop :=
  ∀ (s t : State) (r : List Byte) (a : Byte), exec (.sendRaw r) s = .next t →
    exec (.sendRaw r) { s with addr := a } = .next { t with addr := a }

/-- R180: the five statuses have the codes 0 to 4, which tell them apart but for `e`; the
hand-off was made for 0 and 4 only. -/
def Obligations.StatusCodesAreZeroToFour : Prop :=
  (∀ st : Status, (statusCode st).toNat ≤ 4) ∧
  (∀ st st' : Status, statusCode st = statusCode st' →
    st = st' ∨ ∃ e e', st = .sinkFail e ∧ st' = .sinkFail e') ∧
  statusCode .ok = 0#3 ∧ statusCode .illegalOp = 1#3 ∧ statusCode .illegalOperand = 2#3 ∧
  statusCode .sinkAbsent = 3#3 ∧ (∀ e, statusCode (.sinkFail e) = 4#3) ∧
  (∀ st : Status, statusHandedOff st = true ↔ st = .ok ∨ ∃ e, st = .sinkFail e)

/-! ### The step -/

/-- R20, R43, R58: an idle block out of reset takes the word at its command port, and the step
is `exec` of the command it decodes to, in the state that holds the word as the command in
progress, with the status port idle again and, for `sendRaw`, its operand taken off the
raw-data channel. That the word comes before any pending host event is the model's choice (log
13, DESIGN CHOICE), and so is that the whole operand is taken at once (log 14, DESIGN CHOICE).
-/
def Obligations.StepRunsTheDecodedCommand : Prop :=
  ∀ (s : State) (w : CommandWord) (i : Instr),
    s.handOff = none → s.inflight = none → s.rst = false → s.command = some w →
    decode w s.rawIn.head? = .ok i →
    step s = exec i
      { s with
        statusPort := none
        command := none
        inflight := some w
        rawIn := if opOf w = 0x1C#5 then s.rawIn.tail else s.rawIn }

/-- R178: a `sendRaw` held without its operand runs at the step at which the operand stands on
the raw-data channel, and waits while none does and the host does nothing. That it runs before
any pending host event is the model's choice (log 13, DESIGN CHOICE), and so is that the channel
holds whole operands (log 14, DESIGN CHOICE), and that FB, its index and ACC keep their contents
while it waits (log 6, DESIGN CHOICE). -/
def Obligations.HeldSendRawRunsWhenItsOperandArrives : Prop :=
  ∀ (s : State) (w : CommandWord), s.handOff = none → s.inflight = some w → opOf w = 0x1C#5 →
    (∀ r more, s.rawIn = r :: more →
      step s = exec (.sendRaw r) { s with statusPort := none, rawIn := more }) ∧
    (s.rawIn = [] → s.events = [] → step s = .next { s with statusPort := none })

/-- R178: an operand that the host delivers waits on the raw-data channel behind those before
it; a held `sendRaw` that had none runs on it at the next step. The delivery as a host event is
the model's choice (logs 13, 14 and 21, DESIGN CHOICE), and so is that FB, its index and ACC
keep their contents meanwhile (log 6, DESIGN CHOICE). -/
def Obligations.DeliveredOperandWaitsOrRunsTheHeldSendRaw : Prop :=
  ∀ (s : State) (r : List Byte) (rest : List HostEvent),
    s.handOff = none → s.events = .deliverRaw r :: rest →
    (s.inflight = none → s.command = none →
      step s = .next { s with statusPort := none, rawIn := s.rawIn ++ [r], events := rest }) ∧
    (∀ w, s.inflight = some w → opOf w = 0x1C#5 → s.rawIn = [] →
      ∃ t, step s = .next t ∧
        t = { s with statusPort := none, rawIn := [r], events := rest } ∧
        step t = exec (.sendRaw r) { s with statusPort := none, rawIn := [], events := rest })

/-- R62, R182, R188: an unassigned operation select names no command: its word completes with
IllegalOp, whatever its argument, with a sink or without; nothing is handed off, and the block
is ready for the next command. That the word comes before any pending host event is the model's
choice (log 13, DESIGN CHOICE). -/
def Obligations.UnassignedOpCompletesWithIllegalOp : Prop :=
  ∀ (s : State) (w : CommandWord),
    s.handOff = none → s.inflight = none → s.rst = false → s.command = some w →
    opOf w ∈ unassignedOps →
    (∀ raw i, decode w raw ≠ .ok i) ∧
    ∃ tr, step s = .next ({ s with command := none }.faulted .illegalOp tr) ∧
      ({ s with command := none }.faulted .illegalOp tr).ready = true

/-- R37, R185: the sink's answer to the awaited hand-off completes the command, `e` unchanged;
no second hand-off is made. That a ready answer comes before any pending host event is the
model's choice (log 13, DESIGN CHOICE). -/
def Obligations.AnswerCompletesTheAwaitedHandOff : Prop :=
  ∀ (s : State) (seq : List Byte) (a : SinkAnswer) (rest : List SinkAnswer),
    s.handOff = some seq → s.answers = a :: rest →
    ∃ tr, step s = .next
      { s with
        transient := tr
        inflight := none
        handOff := none
        statusPort := some (match a with | .ok => .ok | .fail e => .sinkFail e)
        answers := rest
        statusLog := s.statusLog ++ [match a with | .ok => .ok | .fail e => .sinkFail e] }

/-- R38, R219: while the sink does not answer and the host does nothing, the block stays where
it is, however many steps are taken; a presented command is not accepted. That FB, its index and
ACC keep their contents also where the sequence is a raw one is the model's choice (log 6,
DESIGN CHOICE). -/
def Obligations.SilentSinkHangsTheBlock : Prop :=
  ∀ (s : State) (seq : List Byte) (k : Nat),
    s.handOff = some seq → s.answers = [] → s.events = [] → s.statusPort = none →
    Host.Core.run Sys2Proof.core k s = .next s

/-- R215: a busy block does not accept the presented command, which waits. -/
def Obligations.BusyBlockAcceptsNoCommand : Prop :=
  ∀ (s t : State) (w : CommandWord), s.ready = false → s.command = some w → step s = .next t →
    t.command = some w

/-- R180, R181, R221: a step presents at most one status, on the status port and at the end of
the log, and makes at most one hand-off, at the end of the trace. -/
def Obligations.StepPresentsAtMostOneStatusAndHandOff : Prop :=
  ∀ s t : State, step s = .next t →
    (∃ sts, sts.length ≤ 1 ∧ t.statusLog = s.statusLog ++ sts ∧ t.statusPort = sts.head?) ∧
    ∃ seqs, seqs.length ≤ 1 ∧ t.sinkTrace = s.sinkTrace ++ seqs

/-- R184, U7: a run goes wrong only at a step with no sink attached. -/
def Obligations.RunGoesWrongOnlyWithoutASink : Prop :=
  ∀ s t : State, step s = .next t → s.goneWrong = false → t.goneWrong = true →
    s.sinkPresent = false

/-! ### Reset and the straps -/

/-- R211, R212: the state after reset, for every value of the two straps. -/
def Obligations.ResetLeavesTheBlockIdle : Prop :=
  ∀ (a : Byte) (p : Bool),
    (State.resetWith a p).addr = a ∧ (State.resetWith a p).ready = true ∧
    (State.resetWith a p).transient.acc = 0#8 ∧
    frameBytes (State.resetWith a p).transient.fb = List.replicate 7 0#8 ∧
    (State.resetWith a p).statusPort = none ∧ (State.resetWith a p).sinkTrace = []

/-- R210, R211, R212: the release of reset latches the strap into `ADDR`, clears FB and ACC,
and hands nothing off. That raw operands which wait are kept is the model's choice (log 21,
DESIGN CHOICE). -/
def Obligations.ResetReleaseLatchesTheStrap : Prop :=
  ∀ (s : State) (rest : List HostEvent),
    s.handOff = none → s.inflight = none → s.rst = true →
    s.events = .driveReset false :: rest →
    ∃ tr, step s = .next
        { s with
          addr := s.addrStrap
          rst := false
          transient := tr
          statusPort := none
          events := rest } ∧
      frameBytes tr.fb = List.replicate 7 0#8 ∧ tr.acc = 0#8

/-- R210, R211: reset asserted at an idle block leaves it idle, writes no `ADDR` (its release does)
and hands nothing off; FB, its index and ACC aside, all else is as before. A word at the command
port out of reset is accepted before the event by the model's choice (log 13, DESIGN CHOICE), so
none stands there, or reset was asserted already; that raw operands which wait are kept is the
model's choice too (log 21, DESIGN CHOICE). -/
def Obligations.ResetAssertedAtAnIdleBlockOnlyHoldsIt : Prop :=
  ∀ (s : State) (rest : List HostEvent),
    s.handOff = none → s.inflight = none → s.command = none ∨ s.rst = true →
    s.events = .driveReset true :: rest →
    ∃ tr, step s = .next
        { s with rst := true, transient := tr, statusPort := none, events := rest }

/-- R210: while reset is asserted an idle block accepts no command, hands nothing to the sink
and presents no status. -/
def Obligations.NothingRunsUnderReset : Prop :=
  ∀ (s t : State) (w : CommandWord), s.handOff = none → s.inflight = none → s.rst = true →
    s.command = some w → step s = .next t →
    t.command = some w ∧ t.inflight = none ∧ t.handOff = none ∧ t.sinkTrace = s.sinkTrace ∧
    t.statusLog = s.statusLog

/-- R216: reset abandons a command that has handed nothing off, and gives no status for it
(log 12). FB, its index and ACC may then hold anything: the spec leaves it open (log 6). -/
def Obligations.ResetAbandonsACollectingCommand : Prop :=
  ∀ (s : State) (w : CommandWord) (rest : List HostEvent),
    s.handOff = none → s.inflight = some w → opOf w = 0x1C#5 → s.rawIn = [] →
    s.events = .driveReset true :: rest →
    ∃ tr, step s = .next
      { s with
        rst := true
        transient := tr
        inflight := none
        statusPort := none
        events := rest }

/-- R216, D28, U9; the refusal is the model's reading of U9 (log 11): a reset while a hand-off
awaits its answer is refused. -/
def Obligations.ResetDuringAHandOffIsRefused : Prop :=
  ∀ (s : State) (seq : List Byte) (rest : List HostEvent),
    s.handOff = some seq → s.answers = [] → s.events = .driveReset true :: rest →
    step s = .refused .resetDuringHandOff

/-- R13, R210: a step changes `ADDR` only at the release of reset, to the value of the
strap. -/
def Obligations.AddressChangesOnlyAtTheReleaseOfReset : Prop :=
  ∀ s t : State, step s = .next t → t.addr ≠ s.addr →
    s.rst = true ∧ t.rst = false ∧ t.addr = s.addrStrap ∧
    ∃ rest, s.events = .driveReset false :: rest

/-- R14, R220: at an idle block a change of a strap changes that strap and nothing else. That
FB, its index and ACC keep their contents is the model's choice (log 6, DESIGN CHOICE). -/
def Obligations.StrapChangesChangeNothingElse : Prop :=
  ∀ (s : State) (rest : List HostEvent) (a : Byte) (p : Bool),
    s.handOff = none → s.inflight = none → s.command = none →
    (s.events = .driveAddr a :: rest →
      step s = .next { s with addrStrap := a, statusPort := none, events := rest }) ∧
    (s.events = .driveSink p :: rest →
      step s = .next { s with sinkPresent := p, statusPort := none, events := rest })

/-! ### Headlines -/

/-- R20, R38, R40, R67, R118, R178, R180, R210: every step keeps the invariant. -/
def Obligations.EveryStepKeepsTheInvariant : Prop :=
  ∀ s t : State, s.Inv → step s = .next t → t.Inv

/-- The state after reset has the invariant, for every value of the straps. -/
def Obligations.ResetHasTheInvariant : Prop :=
  ∀ (a : Byte) (p : Bool), (State.resetWith a p).Inv

/-- U15: what FB, its index and ACC hold between steps has no effect: with other contents a
step gives the same outcome, but for those contents. -/
def Obligations.TransientContentsHaveNoEffect : Prop :=
  ∀ (s : State) (tr : Transient),
    (∃ t tr', step s = .next t ∧
      step { s with transient := tr } = .next { t with transient := tr' }) ∨
    (∃ r, step s = .refused r ∧ step { s with transient := tr } = .refused r)

/-- R36, R37, R185, U8: the block never examines a failure indication: renaming the elements
of `E` commutes with every step. -/
def Obligations.FailureIndicationsAreNeverExamined : Prop :=
  ∀ (f : SinkError → SinkError) (s : State),
    (∀ t, step s = .next t → step (s.mapError f) = .next (t.mapError f)) ∧
    (∀ r, step s = .refused r → step (s.mapError f) = .refused r)

/-- R43, R180, R218: if the sink answers every hand-off and the operands wait on the raw-data channel
(log 21), each command the host presents completes with one status, in two steps, and the block
is idle at the end. The two steps a word takes are the model's granularity (log 1,
DESIGN CHOICE) and scheduling (log 13, DESIGN CHOICE). -/
def Obligations.EveryPresentedCommandCompletes : Prop :=
  ∀ (ws : List CommandWord) (s : State),
    s.ready = true → s.rst = false → s.command = none → s.events = ws.map .present →
    ws.length ≤ s.answers.length →
    (ws.filter (fun w => opOf w == 0x1C#5)).length ≤ s.rawIn.length →
    (∀ r ∈ s.rawIn, r.length ≤ Config.rawMax) →
    ∃ t : State, Host.Core.run Sys2Proof.core (2 * ws.length) s = .next t ∧
      t.events = [] ∧ t.command = none ∧ t.ready = true ∧ t.addr = s.addr ∧
      t.statusLog.length = s.statusLog.length + ws.length
end

