-- ==== Sys2Proof/Laws/Decode.lean ====
section
/-! SUPPORT. The parts of a command word, and what each operation select decodes to. -/

namespace Sys2Proof

/-- A command word as a number (R58, R68). -/
theorem packWord_toNat (op : OpCode) (a : Arg) :
    (packWord op a).toNat = op.toNat * 2 ^ 32 + a.toNat := by
  have := a.isLt
  rw [show (packWord op a).toNat = (op ++ a : BitVec (5 + 32)).toNat from rfl,
    BitVec.toNat_append, Nat.shiftLeft_eq, Nat.mul_comm, Nat.two_pow_add_eq_or_of_lt this]

theorem opOf_toNat (w : CommandWord) : (opOf w).toNat = w.toNat / 2 ^ 32 := by
  have := w.isLt
  rw [opOf, BitVec.extractLsb'_toNat, Nat.shiftRight_eq_div_pow]
  omega

theorem argOf_toNat (w : CommandWord) : (argOf w).toNat = w.toNat % 2 ^ 32 := by
  rw [argOf, BitVec.extractLsb'_toNat, Nat.shiftRight_zero]

@[simp] theorem opOf_packWord (op : OpCode) (a : Arg) : opOf (packWord op a) = op := by
  have := a.isLt
  apply BitVec.eq_of_toNat_eq
  rw [opOf_toNat, packWord_toNat]
  omega

@[simp] theorem argOf_packWord (op : OpCode) (a : Arg) : argOf (packWord op a) = a := by
  have := a.isLt
  apply BitVec.eq_of_toNat_eq
  rw [argOf_toNat, packWord_toNat]
  omega

/-- A word is the packing of its two parts (R58). -/
theorem packWord_parts (w : CommandWord) : packWord (opOf w) (argOf w) = w := by
  apply BitVec.eq_of_toNat_eq
  rw [packWord_toNat, opOf_toNat, argOf_toNat]
  omega

/-- The speed operand comes back from the argument that carries it (R59). -/
@[simp] theorem speedOf_setWidth (v : Byte) : speedOf (v.setWidth 32) = v := by
  apply BitVec.eq_of_getLsbD_eq
  intro i hi
  have : i < 32 := by omega
  simp [speedOf, hi, this]

/-- The speed operand is the argument without its ignored bits (R59). -/
theorem speedOf_setWidth_eq_and (a : Arg) :
    (speedOf a).setWidth 32 = a &&& 0x000000FF#32 := by
  apply BitVec.eq_of_getLsbD_eq
  intro i hi
  have h : (0x000000FF#32).getLsbD i = decide (i < 8) := by
    revert i; decide
  simp only [speedOf, BitVec.getLsbD_setWidth, BitVec.getLsbD_extractLsb', BitVec.getLsbD_and, h]
  by_cases h8 : i < 8 <;> simp [h8, hi]

/-- There are 32 operation select values. -/
theorem opCode_cases (P : OpCode → Prop) (h : ∀ n : Fin 32, P (BitVec.ofFin n)) (op : OpCode) :
    P op := h op.toFin

end Sys2Proof
end

