-- ==== Sys2Proof/Laws/State.lean ====
section
/-! SUPPORT. One lemma per field of State per update, so that no proof unfolds an update. -/

namespace Sys2Proof.Machine

/-! ### State.buildFrame -/

@[simp] theorem State.buildFrame_addr (c1 c2 d1 d2 : Byte) (s : State) :
    (s.buildFrame c1 c2 d1 d2).addr = s.addr := rfl
@[simp] theorem State.buildFrame_rst (c1 c2 d1 d2 : Byte) (s : State) :
    (s.buildFrame c1 c2 d1 d2).rst = s.rst := rfl
@[simp] theorem State.buildFrame_addrStrap (c1 c2 d1 d2 : Byte) (s : State) :
    (s.buildFrame c1 c2 d1 d2).addrStrap = s.addrStrap := rfl
@[simp] theorem State.buildFrame_sinkPresent (c1 c2 d1 d2 : Byte) (s : State) :
    (s.buildFrame c1 c2 d1 d2).sinkPresent = s.sinkPresent := rfl
@[simp] theorem State.buildFrame_inflight (c1 c2 d1 d2 : Byte) (s : State) :
    (s.buildFrame c1 c2 d1 d2).inflight = s.inflight := rfl
@[simp] theorem State.buildFrame_handOff (c1 c2 d1 d2 : Byte) (s : State) :
    (s.buildFrame c1 c2 d1 d2).handOff = s.handOff := rfl
@[simp] theorem State.buildFrame_statusPort (c1 c2 d1 d2 : Byte) (s : State) :
    (s.buildFrame c1 c2 d1 d2).statusPort = s.statusPort := rfl
@[simp] theorem State.buildFrame_command (c1 c2 d1 d2 : Byte) (s : State) :
    (s.buildFrame c1 c2 d1 d2).command = s.command := rfl
@[simp] theorem State.buildFrame_events (c1 c2 d1 d2 : Byte) (s : State) :
    (s.buildFrame c1 c2 d1 d2).events = s.events := rfl
@[simp] theorem State.buildFrame_rawIn (c1 c2 d1 d2 : Byte) (s : State) :
    (s.buildFrame c1 c2 d1 d2).rawIn = s.rawIn := rfl
@[simp] theorem State.buildFrame_answers (c1 c2 d1 d2 : Byte) (s : State) :
    (s.buildFrame c1 c2 d1 d2).answers = s.answers := rfl
@[simp] theorem State.buildFrame_sinkTrace (c1 c2 d1 d2 : Byte) (s : State) :
    (s.buildFrame c1 c2 d1 d2).sinkTrace = s.sinkTrace := rfl
@[simp] theorem State.buildFrame_statusLog (c1 c2 d1 d2 : Byte) (s : State) :
    (s.buildFrame c1 c2 d1 d2).statusLog = s.statusLog := rfl

/-! ### State.complete -/

@[simp] theorem State.complete_addr (st : Status) (s : State) :
    (s.complete st).addr = s.addr := rfl
@[simp] theorem State.complete_rst (st : Status) (s : State) :
    (s.complete st).rst = s.rst := rfl
@[simp] theorem State.complete_addrStrap (st : Status) (s : State) :
    (s.complete st).addrStrap = s.addrStrap := rfl
@[simp] theorem State.complete_sinkPresent (st : Status) (s : State) :
    (s.complete st).sinkPresent = s.sinkPresent := rfl
@[simp] theorem State.complete_transient (st : Status) (s : State) :
    (s.complete st).transient = discard s.transient := rfl
@[simp] theorem State.complete_inflight (st : Status) (s : State) :
    (s.complete st).inflight = none := rfl
@[simp] theorem State.complete_handOff (st : Status) (s : State) :
    (s.complete st).handOff = none := rfl
@[simp] theorem State.complete_statusPort (st : Status) (s : State) :
    (s.complete st).statusPort = some st := rfl
@[simp] theorem State.complete_command (st : Status) (s : State) :
    (s.complete st).command = s.command := rfl
@[simp] theorem State.complete_events (st : Status) (s : State) :
    (s.complete st).events = s.events := rfl
@[simp] theorem State.complete_rawIn (st : Status) (s : State) :
    (s.complete st).rawIn = s.rawIn := rfl
@[simp] theorem State.complete_answers (st : Status) (s : State) :
    (s.complete st).answers = s.answers := rfl
@[simp] theorem State.complete_sinkTrace (st : Status) (s : State) :
    (s.complete st).sinkTrace = s.sinkTrace := rfl
@[simp] theorem State.complete_statusLog (st : Status) (s : State) :
    (s.complete st).statusLog = s.statusLog ++ [st] := rfl

/-! ### State.raise -/

@[simp] theorem State.raise_addr (st : Status) (s : State) :
    (s.raise st).addr = s.addr := rfl
@[simp] theorem State.raise_rst (st : Status) (s : State) :
    (s.raise st).rst = s.rst := rfl
@[simp] theorem State.raise_addrStrap (st : Status) (s : State) :
    (s.raise st).addrStrap = s.addrStrap := rfl
@[simp] theorem State.raise_sinkPresent (st : Status) (s : State) :
    (s.raise st).sinkPresent = s.sinkPresent := rfl
@[simp] theorem State.raise_transient (st : Status) (s : State) :
    (s.raise st).transient = discard s.transient := rfl
@[simp] theorem State.raise_inflight (st : Status) (s : State) :
    (s.raise st).inflight = none := rfl
@[simp] theorem State.raise_handOff (st : Status) (s : State) :
    (s.raise st).handOff = none := rfl
@[simp] theorem State.raise_statusPort (st : Status) (s : State) :
    (s.raise st).statusPort = some st := rfl
@[simp] theorem State.raise_command (st : Status) (s : State) :
    (s.raise st).command = s.command := rfl
@[simp] theorem State.raise_events (st : Status) (s : State) :
    (s.raise st).events = s.events := rfl
@[simp] theorem State.raise_rawIn (st : Status) (s : State) :
    (s.raise st).rawIn = s.rawIn := rfl
@[simp] theorem State.raise_answers (st : Status) (s : State) :
    (s.raise st).answers = s.answers := rfl
@[simp] theorem State.raise_sinkTrace (st : Status) (s : State) :
    (s.raise st).sinkTrace = s.sinkTrace := rfl
@[simp] theorem State.raise_statusLog (st : Status) (s : State) :
    (s.raise st).statusLog = s.statusLog ++ [st] := rfl

/-! ### State.sinkSend -/

@[simp] theorem State.sinkSend_addr (seq : List Byte) (s : State) :
    (s.sinkSend seq).addr = s.addr := rfl
@[simp] theorem State.sinkSend_rst (seq : List Byte) (s : State) :
    (s.sinkSend seq).rst = s.rst := rfl
@[simp] theorem State.sinkSend_addrStrap (seq : List Byte) (s : State) :
    (s.sinkSend seq).addrStrap = s.addrStrap := rfl
@[simp] theorem State.sinkSend_sinkPresent (seq : List Byte) (s : State) :
    (s.sinkSend seq).sinkPresent = s.sinkPresent := rfl
@[simp] theorem State.sinkSend_transient (seq : List Byte) (s : State) :
    (s.sinkSend seq).transient = s.transient := rfl
@[simp] theorem State.sinkSend_inflight (seq : List Byte) (s : State) :
    (s.sinkSend seq).inflight = s.inflight := rfl
@[simp] theorem State.sinkSend_handOff (seq : List Byte) (s : State) :
    (s.sinkSend seq).handOff = some seq := rfl
@[simp] theorem State.sinkSend_statusPort (seq : List Byte) (s : State) :
    (s.sinkSend seq).statusPort = s.statusPort := rfl
@[simp] theorem State.sinkSend_command (seq : List Byte) (s : State) :
    (s.sinkSend seq).command = s.command := rfl
@[simp] theorem State.sinkSend_events (seq : List Byte) (s : State) :
    (s.sinkSend seq).events = s.events := rfl
@[simp] theorem State.sinkSend_rawIn (seq : List Byte) (s : State) :
    (s.sinkSend seq).rawIn = s.rawIn := rfl
@[simp] theorem State.sinkSend_answers (seq : List Byte) (s : State) :
    (s.sinkSend seq).answers = s.answers := rfl
@[simp] theorem State.sinkSend_sinkTrace (seq : List Byte) (s : State) :
    (s.sinkSend seq).sinkTrace = s.sinkTrace ++ [seq] := rfl
@[simp] theorem State.sinkSend_statusLog (seq : List Byte) (s : State) :
    (s.sinkSend seq).statusLog = s.statusLog := rfl

/-! ### State.assertReset -/

@[simp] theorem State.assertReset_addr (s : State) :
    (s.assertReset).addr = s.addr := rfl
@[simp] theorem State.assertReset_rst (s : State) :
    (s.assertReset).rst = true := rfl
@[simp] theorem State.assertReset_addrStrap (s : State) :
    (s.assertReset).addrStrap = s.addrStrap := rfl
@[simp] theorem State.assertReset_sinkPresent (s : State) :
    (s.assertReset).sinkPresent = s.sinkPresent := rfl
@[simp] theorem State.assertReset_transient (s : State) :
    (s.assertReset).transient = discard s.transient := rfl
@[simp] theorem State.assertReset_inflight (s : State) :
    (s.assertReset).inflight = none := rfl
@[simp] theorem State.assertReset_handOff (s : State) :
    (s.assertReset).handOff = none := rfl
@[simp] theorem State.assertReset_statusPort (s : State) :
    (s.assertReset).statusPort = none := rfl
@[simp] theorem State.assertReset_command (s : State) :
    (s.assertReset).command = s.command := rfl
@[simp] theorem State.assertReset_events (s : State) :
    (s.assertReset).events = s.events := rfl
@[simp] theorem State.assertReset_rawIn (s : State) :
    (s.assertReset).rawIn = s.rawIn := rfl
@[simp] theorem State.assertReset_answers (s : State) :
    (s.assertReset).answers = s.answers := rfl
@[simp] theorem State.assertReset_sinkTrace (s : State) :
    (s.assertReset).sinkTrace = s.sinkTrace := rfl
@[simp] theorem State.assertReset_statusLog (s : State) :
    (s.assertReset).statusLog = s.statusLog := rfl

/-! ### State.releaseReset -/

@[simp] theorem State.releaseReset_addr (s : State) :
    (s.releaseReset).addr = s.addrStrap := rfl
@[simp] theorem State.releaseReset_rst (s : State) :
    (s.releaseReset).rst = false := rfl
@[simp] theorem State.releaseReset_addrStrap (s : State) :
    (s.releaseReset).addrStrap = s.addrStrap := rfl
@[simp] theorem State.releaseReset_sinkPresent (s : State) :
    (s.releaseReset).sinkPresent = s.sinkPresent := rfl
@[simp] theorem State.releaseReset_transient (s : State) :
    (s.releaseReset).transient = clearTransient s.transient := rfl
@[simp] theorem State.releaseReset_inflight (s : State) :
    (s.releaseReset).inflight = none := rfl
@[simp] theorem State.releaseReset_handOff (s : State) :
    (s.releaseReset).handOff = none := rfl
@[simp] theorem State.releaseReset_statusPort (s : State) :
    (s.releaseReset).statusPort = none := rfl
@[simp] theorem State.releaseReset_command (s : State) :
    (s.releaseReset).command = s.command := rfl
@[simp] theorem State.releaseReset_events (s : State) :
    (s.releaseReset).events = s.events := rfl
@[simp] theorem State.releaseReset_rawIn (s : State) :
    (s.releaseReset).rawIn = s.rawIn := rfl
@[simp] theorem State.releaseReset_answers (s : State) :
    (s.releaseReset).answers = s.answers := rfl
@[simp] theorem State.releaseReset_sinkTrace (s : State) :
    (s.releaseReset).sinkTrace = s.sinkTrace := rfl
@[simp] theorem State.releaseReset_statusLog (s : State) :
    (s.releaseReset).statusLog = s.statusLog := rfl

/-! ### State.dropEvent -/

@[simp] theorem State.dropEvent_addr (s : State) :
    (s.dropEvent).addr = s.addr := rfl
@[simp] theorem State.dropEvent_rst (s : State) :
    (s.dropEvent).rst = s.rst := rfl
@[simp] theorem State.dropEvent_addrStrap (s : State) :
    (s.dropEvent).addrStrap = s.addrStrap := rfl
@[simp] theorem State.dropEvent_sinkPresent (s : State) :
    (s.dropEvent).sinkPresent = s.sinkPresent := rfl
@[simp] theorem State.dropEvent_transient (s : State) :
    (s.dropEvent).transient = s.transient := rfl
@[simp] theorem State.dropEvent_inflight (s : State) :
    (s.dropEvent).inflight = s.inflight := rfl
@[simp] theorem State.dropEvent_handOff (s : State) :
    (s.dropEvent).handOff = s.handOff := rfl
@[simp] theorem State.dropEvent_statusPort (s : State) :
    (s.dropEvent).statusPort = s.statusPort := rfl
@[simp] theorem State.dropEvent_command (s : State) :
    (s.dropEvent).command = s.command := rfl
@[simp] theorem State.dropEvent_events (s : State) :
    (s.dropEvent).events = s.events.tail := rfl
@[simp] theorem State.dropEvent_rawIn (s : State) :
    (s.dropEvent).rawIn = s.rawIn := rfl
@[simp] theorem State.dropEvent_answers (s : State) :
    (s.dropEvent).answers = s.answers := rfl
@[simp] theorem State.dropEvent_sinkTrace (s : State) :
    (s.dropEvent).sinkTrace = s.sinkTrace := rfl
@[simp] theorem State.dropEvent_statusLog (s : State) :
    (s.dropEvent).statusLog = s.statusLog := rfl

/-! ### State.deliverRaw -/

@[simp] theorem State.deliverRaw_addr (r : List Byte) (s : State) :
    (s.deliverRaw r).addr = s.addr := rfl
@[simp] theorem State.deliverRaw_rst (r : List Byte) (s : State) :
    (s.deliverRaw r).rst = s.rst := rfl
@[simp] theorem State.deliverRaw_addrStrap (r : List Byte) (s : State) :
    (s.deliverRaw r).addrStrap = s.addrStrap := rfl
@[simp] theorem State.deliverRaw_sinkPresent (r : List Byte) (s : State) :
    (s.deliverRaw r).sinkPresent = s.sinkPresent := rfl
@[simp] theorem State.deliverRaw_transient (r : List Byte) (s : State) :
    (s.deliverRaw r).transient = s.transient := rfl
@[simp] theorem State.deliverRaw_inflight (r : List Byte) (s : State) :
    (s.deliverRaw r).inflight = s.inflight := rfl
@[simp] theorem State.deliverRaw_handOff (r : List Byte) (s : State) :
    (s.deliverRaw r).handOff = s.handOff := rfl
@[simp] theorem State.deliverRaw_statusPort (r : List Byte) (s : State) :
    (s.deliverRaw r).statusPort = s.statusPort := rfl
@[simp] theorem State.deliverRaw_command (r : List Byte) (s : State) :
    (s.deliverRaw r).command = s.command := rfl
@[simp] theorem State.deliverRaw_events (r : List Byte) (s : State) :
    (s.deliverRaw r).events = s.events.tail := rfl
@[simp] theorem State.deliverRaw_rawIn (r : List Byte) (s : State) :
    (s.deliverRaw r).rawIn = s.rawIn ++ [r] := rfl
@[simp] theorem State.deliverRaw_answers (r : List Byte) (s : State) :
    (s.deliverRaw r).answers = s.answers := rfl
@[simp] theorem State.deliverRaw_sinkTrace (r : List Byte) (s : State) :
    (s.deliverRaw r).sinkTrace = s.sinkTrace := rfl
@[simp] theorem State.deliverRaw_statusLog (r : List Byte) (s : State) :
    (s.deliverRaw r).statusLog = s.statusLog := rfl

/-! ### State.accept -/

@[simp] theorem State.accept_addr (w : CommandWord) (s : State) :
    (s.accept w).addr = s.addr := rfl
@[simp] theorem State.accept_rst (w : CommandWord) (s : State) :
    (s.accept w).rst = s.rst := rfl
@[simp] theorem State.accept_addrStrap (w : CommandWord) (s : State) :
    (s.accept w).addrStrap = s.addrStrap := rfl
@[simp] theorem State.accept_sinkPresent (w : CommandWord) (s : State) :
    (s.accept w).sinkPresent = s.sinkPresent := rfl
@[simp] theorem State.accept_transient (w : CommandWord) (s : State) :
    (s.accept w).transient = s.transient := rfl
@[simp] theorem State.accept_inflight (w : CommandWord) (s : State) :
    (s.accept w).inflight = some w := rfl
@[simp] theorem State.accept_handOff (w : CommandWord) (s : State) :
    (s.accept w).handOff = s.handOff := rfl
@[simp] theorem State.accept_statusPort (w : CommandWord) (s : State) :
    (s.accept w).statusPort = s.statusPort := rfl
@[simp] theorem State.accept_command (w : CommandWord) (s : State) :
    (s.accept w).command = none := rfl
@[simp] theorem State.accept_events (w : CommandWord) (s : State) :
    (s.accept w).events = s.events := rfl
@[simp] theorem State.accept_rawIn (w : CommandWord) (s : State) :
    (s.accept w).rawIn = s.rawIn := rfl
@[simp] theorem State.accept_answers (w : CommandWord) (s : State) :
    (s.accept w).answers = s.answers := rfl
@[simp] theorem State.accept_sinkTrace (w : CommandWord) (s : State) :
    (s.accept w).sinkTrace = s.sinkTrace := rfl
@[simp] theorem State.accept_statusLog (w : CommandWord) (s : State) :
    (s.accept w).statusLog = s.statusLog := rfl

/-! ### State.clearStatus -/

@[simp] theorem State.clearStatus_addr (s : State) :
    (s.clearStatus).addr = s.addr := rfl
@[simp] theorem State.clearStatus_rst (s : State) :
    (s.clearStatus).rst = s.rst := rfl
@[simp] theorem State.clearStatus_addrStrap (s : State) :
    (s.clearStatus).addrStrap = s.addrStrap := rfl
@[simp] theorem State.clearStatus_sinkPresent (s : State) :
    (s.clearStatus).sinkPresent = s.sinkPresent := rfl
@[simp] theorem State.clearStatus_transient (s : State) :
    (s.clearStatus).transient = s.transient := rfl
@[simp] theorem State.clearStatus_inflight (s : State) :
    (s.clearStatus).inflight = s.inflight := rfl
@[simp] theorem State.clearStatus_handOff (s : State) :
    (s.clearStatus).handOff = s.handOff := rfl
@[simp] theorem State.clearStatus_statusPort (s : State) :
    (s.clearStatus).statusPort = none := rfl
@[simp] theorem State.clearStatus_command (s : State) :
    (s.clearStatus).command = s.command := rfl
@[simp] theorem State.clearStatus_events (s : State) :
    (s.clearStatus).events = s.events := rfl
@[simp] theorem State.clearStatus_rawIn (s : State) :
    (s.clearStatus).rawIn = s.rawIn := rfl
@[simp] theorem State.clearStatus_answers (s : State) :
    (s.clearStatus).answers = s.answers := rfl
@[simp] theorem State.clearStatus_sinkTrace (s : State) :
    (s.clearStatus).sinkTrace = s.sinkTrace := rfl
@[simp] theorem State.clearStatus_statusLog (s : State) :
    (s.clearStatus).statusLog = s.statusLog := rfl

end Sys2Proof.Machine
end

