-- ==== Sys2Proof/Laws/Ops.lean ====
section
/-! SUPPORT. For each shared operation, what it can do, said once. -/

namespace Sys2Proof.Machine

/-! ### The Frame Builder -/

/-- The accumulation leaves FB alone and sums B2 to B6 from 0. -/
theorem accumulate_eq (t : Transient) :
    accumulate t =
      { t with
        acc := t.fb.address + t.fb.command1 + t.fb.command2 + t.fb.data1 + t.fb.data2 } := by
  simp [accumulate, addToAcc]

/-- FB after the builder: the seven fields, whatever FB, the index and ACC held before. -/
theorem buildFrame_fb (c1 c2 d1 d2 : Byte) (s : State) :
    (s.buildFrame c1 c2 d1 d2).transient.fb =
      ⟨0xFF#8, s.addr, c1, c2, d1, d2, s.addr + c1 + c2 + d1 + d2⟩ := by
  simp [State.buildFrame, accumulate_eq, pushByte, frameWrite]

/-- The builder changes the transient state only. -/
theorem buildFrame_frame (c1 c2 d1 d2 : Byte) (s : State) :
    s.buildFrame c1 c2 d1 d2 =
      { s with transient := (s.buildFrame c1 c2 d1 d2).transient } := rfl

/-- A byte is the numeral of its value. -/
theorem byte_of_toNat (b : Byte) : BitVec.ofNat 8 b.toNat = b := by simp

/-- The bytes of a built frame, as arithmetic on numbers. -/
theorem frameBytes_build (a c1 c2 d1 d2 : Byte) :
    frameBytes ⟨0xFF#8, a, c1, c2, d1, d2, a + c1 + c2 + d1 + d2⟩ =
      frameOf a c1.toNat c2.toNat d1.toNat d2.toNat := by
  simp only [frameBytes, frameOf, List.map, byte_of_toNat]
  congr 7
  apply BitVec.eq_of_toNat_eq
  simp [BitVec.toNat_add]

/-! ### Completion and the hand-off -/

/-- What `complete` leaves, as the state of a command that ended without a hand-off. -/
theorem complete_eq_faulted (st : Status) (s : State) :
    s.complete st = s.faulted st (discard s.transient) := rfl

/-- What `awaitAnswer` can do: wait, or complete with the status of the first answer. -/
theorem awaitAnswer_cases (s : State) :
    (s.answers = [] ∧ s.awaitAnswer = s) ∨
    (∃ a rest, s.answers = a :: rest ∧
      s.awaitAnswer = { s with answers := rest }.complete (answerStatus a)) := by
  cases h : s.answers with
  | nil => exact .inl ⟨rfl, by simp [State.awaitAnswer, h]⟩
  | cons a rest => exact .inr ⟨a, rest, rfl, by simp [State.awaitAnswer, h]⟩

/-- Without a sink `emit` hands nothing off. -/
theorem emit_absent (seq : List Byte) (s : State) (h : s.sinkPresent = false) :
    s.emit seq = s.faulted .sinkAbsent (discard s.transient) := by
  simp [State.emit, h, State.raise, complete_eq_faulted]

/-- With a sink that has not answered, `emit` waits. -/
theorem emit_silent (seq : List Byte) (s : State) (h : s.sinkPresent = true)
    (ha : s.answers = []) : s.emit seq = s.waiting seq s.transient := by
  simp [State.emit, h, State.awaitAnswer, State.sinkSend, State.waiting, ha]

/-- With an answer ready, `emit` completes. -/
theorem emit_answered (seq : List Byte) (s : State) (a : SinkAnswer) (rest : List SinkAnswer)
    (h : s.sinkPresent = true) (ha : s.answers = a :: rest) :
    s.emit seq = s.delivered seq a rest (discard s.transient) := by
  simp [State.emit, h, State.awaitAnswer, State.sinkSend, State.complete, State.delivered, ha]

/-- What `emit` can do: fault, wait or complete. -/
theorem emit_cases (seq : List Byte) (s : State) :
    (s.sinkPresent = false ∧ s.emit seq = s.faulted .sinkAbsent (discard s.transient)) ∨
    (s.sinkPresent = true ∧ s.answers = [] ∧ s.emit seq = s.waiting seq s.transient) ∨
    (s.sinkPresent = true ∧ ∃ a rest, s.answers = a :: rest ∧
      s.emit seq = s.delivered seq a rest (discard s.transient)) := by
  cases h : s.sinkPresent with
  | false => exact .inl ⟨rfl, emit_absent seq s h⟩
  | true =>
    cases ha : s.answers with
    | nil => exact .inr (.inl ⟨rfl, rfl, emit_silent seq s h ha⟩)
    | cons a rest => exact .inr (.inr ⟨rfl, a, rest, rfl, emit_answered seq s a rest h ha⟩)

/-- A framed command is `emit` of its frame, from a state that differs in FB, its index and
ACC only. -/
theorem sendFrame_eq (c1 c2 d1 d2 : Byte) (s : State) :
    s.sendFrame c1 c2 d1 d2 =
      { s with transient := (s.buildFrame c1 c2 d1 d2).transient }.emit
        (frameOf s.addr c1.toNat c2.toNat d1.toNat d2.toNat) := by
  rw [← frameBytes_build, ← buildFrame_fb, ← buildFrame_frame]
  rfl

/-- The same, as the answer of a meaning. -/
theorem emits_of_sendFrame {o : Host.Outcome State Fault Refusal} {c1 c2 d1 d2 : Byte}
    {s : State} (h : o = .next (s.sendFrame c1 c2 d1 d2)) :
    ∃ seq tr, o = .next ({ s with transient := tr }.emit seq) :=
  ⟨_, _, h.trans (congrArg _ (sendFrame_eq c1 c2 d1 d2 s))⟩

/-- `msb` and `lsb` as arithmetic on the payload (R31). -/
theorem msb_toNat (u : BitVec 16) : (msb u).toNat = u.toNat / 256 := by
  have := u.isLt
  simp [msb, BitVec.extractLsb'_toNat, Nat.shiftRight_eq_div_pow]
  omega

theorem lsb_toNat (u : BitVec 16) : (lsb u).toNat = u.toNat % 256 := by
  simp [lsb, BitVec.extractLsb'_toNat]

/-- A payload that fits in 16 bits is carried whole (R56). -/
theorem payload_toNat (u : Nat) (h : u < 65536) : (payload u).toNat = u := by
  simp [payload, Nat.mod_eq_of_lt h]

/-- A frame in the opcode convention, its payload as a number. -/
theorem sendOpcode_eq (opcode : Byte) (u : BitVec 16) (s : State) :
    ∃ tr, s.sendOpcode opcode u =
      { s with transient := tr }.emit
        (frameOf s.addr 0x00 opcode.toNat (u.toNat / 256) (u.toNat % 256)) := by
  refine ⟨(s.buildFrame 0x00#8 opcode (msb u) (lsb u)).transient, ?_⟩
  rw [← msb_toNat, ← lsb_toNat]
  exact sendFrame_eq 0x00#8 opcode (msb u) (lsb u) s

/-- A real form of a position setter faults on a NaN and else sends the scaled position. -/
theorem sendReal_cases (opcode : Byte) (scale : ExtReal → Nat) (x : Arg) (s : State) :
    (f32Val x = none ∧ s.sendReal opcode scale x = s.faulted .illegalOperand (discard s.transient)) ∨
    (∃ v, f32Val x = some v ∧
      s.sendReal opcode scale x = s.sendOpcode opcode (payload (scale v))) := by
  cases h : f32Val x with
  | none => exact .inl ⟨rfl, by simp [State.sendReal, h, State.raise, complete_eq_faulted]⟩
  | some v => exact .inr ⟨v, rfl, by simp [State.sendReal, h]⟩

/-! ### What `exec` can do -/

/-- A command is refused for a `sendRaw` operand above `RAW_MAX`, faults on a NaN, or emits
one sequence from a state that differs in FB, its index and ACC only. -/
theorem exec_cases (i : Instr) (s : State) :
    (i.wellFormed = false ∧ exec i s = .refused .rawTooLong) ∨
    (i.wellFormed = true ∧ operandIsNaN i = true ∧
      exec i s = .next (s.faulted .illegalOperand (discard s.transient))) ∨
    (i.wellFormed = true ∧ operandIsNaN i = false ∧
      ∃ seq tr, exec i s = .next ({ s with transient := tr }.emit seq)) := by
  cases i
  case sendRaw r =>
    by_cases h : r.length ≤ Config.rawMax
    · exact .inr (.inr ⟨by simp [Instr.wellFormed, h], rfl, r, s.transient,
        by simp [exec, execSendRaw, h]⟩)
    · exact .inl ⟨by simp [Instr.wellFormed, h], by simp [exec, execSendRaw, h]⟩
  case setPanPositionDeg x =>
    refine .inr ?_
    rcases sendReal_cases 0x4B#8 (fun v => posPT (panUnits v)) x s with ⟨h, e⟩ | ⟨v, h, e⟩
    · exact .inl ⟨rfl, by simp [operandIsNaN, h], congrArg _ e⟩
    · exact .inr ⟨rfl, by simp [operandIsNaN, h], emits_of_sendFrame (congrArg _ e)⟩
  case setTiltPositionDeg x =>
    refine .inr ?_
    rcases sendReal_cases 0x4D#8 (fun v => posPT (tiltUnits v)) x s with ⟨h, e⟩ | ⟨v, h, e⟩
    · exact .inl ⟨rfl, by simp [operandIsNaN, h], congrArg _ e⟩
    · exact .inr ⟨rfl, by simp [operandIsNaN, h], emits_of_sendFrame (congrArg _ e)⟩
  case setZoomPositionRatio x =>
    refine .inr ?_
    rcases sendReal_cases 0x4F#8 (fun v => posZ (zoomUnits v)) x s with ⟨h, e⟩ | ⟨v, h, e⟩
    · exact .inl ⟨rfl, by simp [operandIsNaN, h], congrArg _ e⟩
    · exact .inr ⟨rfl, by simp [operandIsNaN, h], emits_of_sendFrame (congrArg _ e)⟩
  all_goals exact .inr (.inr ⟨rfl, rfl, emits_of_sendFrame rfl⟩)

/-- A framed command hands off bytes that depend on its operands and `ADDR` only. -/
theorem emits_at_address {f : State → Host.Outcome State Fault Refusal} {c1 c2 d1 d2 : Byte}
    (h : ∀ s, f s = .next (s.sendFrame c1 c2 d1 d2)) (addr : Byte) :
    ∃ seq, ∀ s : State, s.addr = addr → ∃ tr, f s = .next ({ s with transient := tr }.emit seq) :=
  ⟨frameOf addr c1.toNat c2.toNat d1.toNat d2.toNat, fun s hs => by
    subst hs
    exact ⟨_, (h s).trans (congrArg _ (sendFrame_eq c1 c2 d1 d2 s))⟩⟩

/-- The bytes a command hands off depend on the command and `ADDR` only (R21). -/
theorem exec_emits (i : Instr) (addr : Byte) (hw : i.wellFormed = true)
    (hn : operandIsNaN i = false) :
    ∃ seq, ∀ s : State, s.addr = addr →
      ∃ tr, exec i s = .next ({ s with transient := tr }.emit seq) := by
  cases i
  case sendRaw r =>
    have h : r.length ≤ Config.rawMax := by simpa [Instr.wellFormed] using hw
    exact ⟨r, fun s _ => ⟨s.transient, by simp [exec, execSendRaw, h]⟩⟩
  case setPanPositionDeg x =>
    obtain ⟨v, hv⟩ : ∃ v, f32Val x = some v := by
      simpa [operandIsNaN, Option.isSome_iff_exists] using hn
    exact emits_at_address (fun s => by
      simp only [exec, execSetPanPositionDeg, State.sendReal, hv]; rfl) addr
  case setTiltPositionDeg x =>
    obtain ⟨v, hv⟩ : ∃ v, f32Val x = some v := by
      simpa [operandIsNaN, Option.isSome_iff_exists] using hn
    exact emits_at_address (fun s => by
      simp only [exec, execSetTiltPositionDeg, State.sendReal, hv]; rfl) addr
  case setZoomPositionRatio x =>
    obtain ⟨v, hv⟩ : ∃ v, f32Val x = some v := by
      simpa [operandIsNaN, Option.isSome_iff_exists] using hn
    exact emits_at_address (fun s => by
      simp only [exec, execSetZoomPositionRatio, State.sendReal, hv]; rfl) addr
  all_goals exact emits_at_address (fun _ => rfl) addr

/-- `emit` from a state that differs in FB, its index and ACC only. -/
theorem emit_transient_cases (seq : List Byte) (tr : Transient) (s : State) :
    ∃ tr', (s.sinkPresent = false ∧
        { s with transient := tr }.emit seq = s.faulted .sinkAbsent tr') ∨
      (s.sinkPresent = true ∧ s.answers = [] ∧
        { s with transient := tr }.emit seq = s.waiting seq tr') ∨
      (s.sinkPresent = true ∧ ∃ a rest, s.answers = a :: rest ∧
        { s with transient := tr }.emit seq = s.delivered seq a rest tr') := by
  rcases emit_cases seq { s with transient := tr } with ⟨h, e⟩ | ⟨h, ha, e⟩ | ⟨h, a, rest, ha, e⟩
  · exact ⟨_, .inl ⟨h, e⟩⟩
  · exact ⟨_, .inr (.inl ⟨h, ha, e⟩)⟩
  · exact ⟨_, .inr (.inr ⟨h, a, rest, ha, e⟩)⟩

/-- With an answer ready, a framed command completes, its frame handed off. -/
theorem sendFrame_answered (c1 c2 d1 d2 : Byte) (s : State) (a : SinkAnswer)
    (rest : List SinkAnswer) (h : s.sinkPresent = true) (ha : s.answers = a :: rest) :
    ∃ tr, s.sendFrame c1 c2 d1 d2 =
      s.delivered (frameOf s.addr c1.toNat c2.toNat d1.toNat d2.toNat) a rest tr :=
  ⟨_, (sendFrame_eq c1 c2 d1 d2 s).trans (emit_answered _ _ a rest h ha)⟩

/-- If a command answers a next state, it faulted on a NaN, faulted for want of a sink, waits
for the sink, or was delivered. -/
theorem exec_next {i : Instr} {s t : State} (h : exec i s = .next t) :
    ∃ tr, (operandIsNaN i = true ∧ t = s.faulted .illegalOperand tr) ∨
      (s.sinkPresent = false ∧ t = s.faulted .sinkAbsent tr) ∨
      (s.sinkPresent = true ∧ s.answers = [] ∧ ∃ seq, t = s.waiting seq tr) ∨
      (s.sinkPresent = true ∧ ∃ a rest seq, s.answers = a :: rest ∧
        t = s.delivered seq a rest tr) := by
  rcases exec_cases i s with ⟨_, e⟩ | ⟨_, hn, e⟩ | ⟨_, _, seq, tr, e⟩
  · rw [h] at e; cases e
  · rw [h] at e; cases e; exact ⟨_, .inl ⟨hn, rfl⟩⟩
  · rw [h] at e; cases e
    obtain ⟨tr', ⟨hs, e⟩ | ⟨hs, ha, e⟩ | ⟨hs, a, rest, ha, e⟩⟩ := emit_transient_cases seq tr s
    · exact ⟨tr', .inr (.inl ⟨hs, e⟩)⟩
    · exact ⟨tr', .inr (.inr (.inl ⟨hs, ha, seq, e⟩))⟩
    · exact ⟨tr', .inr (.inr (.inr ⟨hs, a, rest, seq, ha, e⟩))⟩

/-! ### What the ports can do -/

/-- `issue` runs the decoded command, raises IllegalOp, or does `pending`. -/
theorem issue_cases (w : CommandWord) (pending : Action) (s : State) :
    (∃ i, decode w s.rawIn.head? = .ok i ∧ s.issue w pending = .run i (s.takeRaw w)) ∨
    (∃ op, decode w s.rawIn.head? = .error (.illegalOp op) ∧
      s.issue w pending = .settled (s.raise .illegalOp)) ∨
    (decode w s.rawIn.head? = .error .rawPending ∧ s.issue w pending = pending) := by
  unfold State.issue
  split
  · exact .inl ⟨_, ‹_›, rfl⟩
  · exact .inr (.inl ⟨_, ‹_›, rfl⟩)
  · exact .inr (.inr ⟨‹_›, rfl⟩)

/-- What the host's turn can do. -/
theorem hostTurn_cases (s : State) :
    (s.events = [] ∧ s.hostTurn = .settled s) ∨
    (∃ w rest, s.events = .present w :: rest ∧ s.command = none ∧
      s.hostTurn = .settled { s.dropEvent with command := some w }) ∨
    (∃ w rest, s.events = .present w :: rest ∧ s.command ≠ none ∧ s.hostTurn = .settled s) ∨
    (∃ r rest, s.events = .deliverRaw r :: rest ∧ s.hostTurn = .settled (s.deliverRaw r)) ∨
    (∃ a rest, s.events = .driveAddr a :: rest ∧
      s.hostTurn = .settled { s.dropEvent with addrStrap := a }) ∨
    (∃ p rest, s.events = .driveSink p :: rest ∧
      s.hostTurn = .settled { s.dropEvent with sinkPresent := p }) ∨
    (∃ rest, s.events = .driveReset true :: rest ∧ s.handOff = none ∧
      s.hostTurn = .settled s.dropEvent.assertReset) ∨
    (∃ rest, s.events = .driveReset true :: rest ∧ s.handOff ≠ none ∧
      s.hostTurn = .refuse .resetDuringHandOff) ∨
    (∃ rest, s.events = .driveReset false :: rest ∧ s.rst = true ∧
      s.hostTurn = .settled s.dropEvent.releaseReset) ∨
    (∃ rest, s.events = .driveReset false :: rest ∧ s.rst = false ∧
      s.hostTurn = .settled s.dropEvent) := by
  rcases he : s.events with _ | ⟨e, rest⟩
  · simp [State.hostTurn, he]
  · cases e with
    | present w => cases hc : s.command <;> simp [State.hostTurn, he, State.presentWord, hc]
    | deliverRaw r => simp [State.hostTurn, he]
    | driveAddr a => simp [State.hostTurn, he]
    | driveSink p => simp [State.hostTurn, he]
    | driveReset b =>
      cases b <;> cases hh : s.handOff <;> cases hr : s.rst <;>
        simp [State.hostTurn, he, State.driveReset, hh, hr]

/-- Whose turn it is. -/
theorem turn_cases (s : State) :
    (s.handOff ≠ none ∧ s.answers = [] ∧ s.turn = s.hostTurn) ∨
    (s.handOff ≠ none ∧ (∃ a rest, s.answers = a :: rest) ∧ s.turn = .settled s.awaitAnswer) ∨
    (s.handOff = none ∧ ∃ w, s.inflight = some w ∧ s.turn = s.issue w s.hostTurn) ∨
    (s.handOff = none ∧ s.inflight = none ∧ s.command = none ∧ s.turn = s.hostTurn) ∨
    (s.handOff = none ∧ s.inflight = none ∧ s.rst = true ∧ s.turn = s.hostTurn) ∨
    (s.handOff = none ∧ s.inflight = none ∧ s.rst = false ∧ ∃ w, s.command = some w ∧
      s.turn = (s.accept w).issue w (.settled (s.accept w))) := by
  cases hh : s.handOff with
  | some seq => cases ha : s.answers <;> simp [State.turn, hh, ha]
  | none =>
    cases hi : s.inflight with
    | some w => simp [State.turn, hh, hi]
    | none =>
      cases hc : s.command <;> cases hr : s.rst <;>
        simp [State.turn, hh, hi, State.whileIdle, hc, hr]

/-- `takeRaw` changes the raw-data channel only. -/
theorem takeRaw_frame (w : CommandWord) (s : State) :
    s.takeRaw w = { s with rawIn := (s.takeRaw w).rawIn } := by
  unfold State.takeRaw; split <;> rfl

end Sys2Proof.Machine
end

