-- ==== Sys2Proof/Laws/PerInstr.lean ====
section
/-! SUPPORT. Of every command: its word is a word of its row of R60, and every bit its format
ignores is 0 (log 19). -/

namespace Sys2Proof.Laws.EncodesItsRow

/-- The word of `i` carries the op of its row and an argument with ignored bits 0. -/
def Statement (i : Instr) : Prop :=
  opOf (encode i) = i.opcode ∧
    argOf (encode i) = argOf (encode i) &&& operandBits i.opcode ∧ i.opcode ∉ Machine.unassignedOps

theorem of_row (i : Instr) (h : i.argument &&& operandBits i.opcode = i.argument)
    (h' : i.opcode ∉ Machine.unassignedOps) : Statement i :=
  ⟨opOf_packWord _ _, by simp [encode, h], h'⟩

/-- A speed operand lies in the bits format S reads. -/
theorem speed_in_row (v : Byte) : v.setWidth 32 &&& 0x000000FF#32 = v.setWidth 32 := by
  rw [← speedOf_setWidth_eq_and, speedOf_setWidth]

/-- Formats U and F read the whole argument. -/
theorem word_in_row (n : Arg) : n &&& 0xFFFFFFFF#32 = n := BitVec.and_allOnes

theorem stopMotion : Statement .stopMotion :=
  of_row _ rfl (by decide)

theorem panLeft (speed : Byte) : Statement (.panLeft speed) :=
  of_row _ (speed_in_row speed) (by simp [Instr.opcode, Machine.unassignedOps])

theorem panRight (speed : Byte) : Statement (.panRight speed) :=
  of_row _ (speed_in_row speed) (by simp [Instr.opcode, Machine.unassignedOps])

theorem tiltUp (speed : Byte) : Statement (.tiltUp speed) :=
  of_row _ (speed_in_row speed) (by simp [Instr.opcode, Machine.unassignedOps])

theorem tiltDown (speed : Byte) : Statement (.tiltDown speed) :=
  of_row _ (speed_in_row speed) (by simp [Instr.opcode, Machine.unassignedOps])

theorem moveLeftUp (speed : Byte) : Statement (.moveLeftUp speed) :=
  of_row _ (speed_in_row speed) (by simp [Instr.opcode, Machine.unassignedOps])

theorem moveRightUp (speed : Byte) : Statement (.moveRightUp speed) :=
  of_row _ (speed_in_row speed) (by simp [Instr.opcode, Machine.unassignedOps])

theorem moveLeftDown (speed : Byte) : Statement (.moveLeftDown speed) :=
  of_row _ (speed_in_row speed) (by simp [Instr.opcode, Machine.unassignedOps])

theorem moveRightDown (speed : Byte) : Statement (.moveRightDown speed) :=
  of_row _ (speed_in_row speed) (by simp [Instr.opcode, Machine.unassignedOps])

theorem zoomIn : Statement .zoomIn :=
  of_row _ rfl (by decide)

theorem zoomOut : Statement .zoomOut :=
  of_row _ rfl (by decide)

theorem focusIn : Statement .focusIn :=
  of_row _ rfl (by decide)

theorem focusOut : Statement .focusOut :=
  of_row _ rfl (by decide)

theorem irisIn : Statement .irisIn :=
  of_row _ rfl (by decide)

theorem irisOut : Statement .irisOut :=
  of_row _ rfl (by decide)

theorem setPreset (n : Arg) : Statement (.setPreset n) :=
  of_row _ (word_in_row n) (by simp [Instr.opcode, Machine.unassignedOps])

theorem clearPreset (n : Arg) : Statement (.clearPreset n) :=
  of_row _ (word_in_row n) (by simp [Instr.opcode, Machine.unassignedOps])

theorem callPreset (n : Arg) : Statement (.callPreset n) :=
  of_row _ (word_in_row n) (by simp [Instr.opcode, Machine.unassignedOps])

theorem setPanPositionU (n : Arg) : Statement (.setPanPositionU n) :=
  of_row _ (word_in_row n) (by simp [Instr.opcode, Machine.unassignedOps])

theorem setTiltPositionU (n : Arg) : Statement (.setTiltPositionU n) :=
  of_row _ (word_in_row n) (by simp [Instr.opcode, Machine.unassignedOps])

theorem setZoomPositionU (n : Arg) : Statement (.setZoomPositionU n) :=
  of_row _ (word_in_row n) (by simp [Instr.opcode, Machine.unassignedOps])

theorem queryPanPosition : Statement .queryPanPosition :=
  of_row _ rfl (by decide)

theorem queryTiltPosition : Statement .queryTiltPosition :=
  of_row _ rfl (by decide)

theorem queryZoomPosition : Statement .queryZoomPosition :=
  of_row _ rfl (by decide)

theorem setPanPositionDeg (n : Arg) : Statement (.setPanPositionDeg n) :=
  of_row _ (word_in_row n) (by simp [Instr.opcode, Machine.unassignedOps])

theorem setTiltPositionDeg (n : Arg) : Statement (.setTiltPositionDeg n) :=
  of_row _ (word_in_row n) (by simp [Instr.opcode, Machine.unassignedOps])

theorem setZoomPositionRatio (n : Arg) : Statement (.setZoomPositionRatio n) :=
  of_row _ (word_in_row n) (by simp [Instr.opcode, Machine.unassignedOps])

theorem sendRaw (r : List Byte) : Statement (.sendRaw r) :=
  of_row _ (BitVec.zero_and) (by simp [Instr.opcode, sendRawOp, Machine.unassignedOps])

end Sys2Proof.Laws.EncodesItsRow
end

