-- ==== Sys2Proof/Laws/Step.lean ====
section
/-! SUPPORT. What a step can do, said once. -/

namespace Sys2Proof.Machine

/-- The command `w` is issued in the state `u` by a step from `s`: it is the command held, or
the block accepts it from its command port. -/
def Issues (s : State) (w : CommandWord) (u : State) : Prop :=
  s.handOff = none ∧
    ((s.inflight = some w ∧ u = s.clearStatus) ∨
     (s.inflight = none ∧ s.rst = false ∧ s.command = some w ∧ u = s.clearStatus.accept w))

/-- The host's turn runs no command. -/
theorem hostTurn_ne_run (s u : State) (i : Instr) : s.hostTurn ≠ .run i u := by
  intro h
  rcases hostTurn_cases s with ⟨_, e⟩ | ⟨_, _, _, _, e⟩ | ⟨_, _, _, _, e⟩ | ⟨_, _, _, e⟩ |
    ⟨_, _, _, e⟩ | ⟨_, _, _, e⟩ | ⟨_, _, _, e⟩ | ⟨_, _, _, e⟩ | ⟨_, _, _, e⟩ | ⟨_, _, _, e⟩ <;>
    rw [h] at e <;> cases e

/-- If the host's turn gives a state, it is one of these. -/
theorem hostTurn_settled {s t : State} (h : s.hostTurn = .settled t) :
    t = s ∨
    (∃ w, s.command = none ∧ t = { s.dropEvent with command := some w }) ∨
    (∃ r, t = s.deliverRaw r) ∨
    (∃ a, t = { s.dropEvent with addrStrap := a }) ∨
    (∃ p, t = { s.dropEvent with sinkPresent := p }) ∨
    (s.handOff = none ∧ t = s.dropEvent.assertReset) ∨
    ((∃ rest, s.events = .driveReset false :: rest) ∧ s.rst = true ∧
      t = s.dropEvent.releaseReset) ∨
    (s.rst = false ∧ t = s.dropEvent) := by
  rcases hostTurn_cases s with ⟨_, e⟩ | ⟨w, _, _, hc, e⟩ | ⟨_, _, _, _, e⟩ | ⟨r, _, _, e⟩ |
    ⟨a, _, _, e⟩ | ⟨p, _, _, e⟩ | ⟨_, _, hh, e⟩ | ⟨_, _, _, e⟩ | ⟨rest, he, hr, e⟩ | ⟨_, _, hr, e⟩ <;>
    rw [h] at e <;> cases e
  · exact .inl rfl
  · exact .inr (.inl ⟨w, hc, rfl⟩)
  · exact .inl rfl
  · exact .inr (.inr (.inl ⟨r, rfl⟩))
  · exact .inr (.inr (.inr (.inl ⟨a, rfl⟩)))
  · exact .inr (.inr (.inr (.inr (.inl ⟨p, rfl⟩))))
  · exact .inr (.inr (.inr (.inr (.inr (.inl ⟨hh, rfl⟩)))))
  · exact .inr (.inr (.inr (.inr (.inr (.inr (.inl ⟨⟨rest, he⟩, hr, rfl⟩))))))
  · exact .inr (.inr (.inr (.inr (.inr (.inr (.inr ⟨hr, rfl⟩))))))

/-- A step is the host's turn, the sink's answer, or the issue of a command. -/
theorem step_cases (s : State) :
    (∃ t, s.clearStatus.hostTurn = .settled t ∧ step s = .next t) ∨
    (∃ r, s.clearStatus.hostTurn = .refuse r ∧ step s = .refused r) ∨
    (∃ a rest, s.handOff ≠ none ∧ s.answers = a :: rest ∧
      step s = .next ({ s.clearStatus with answers := rest }.complete (answerStatus a))) ∨
    (∃ w u, Issues s w u ∧
      ((∃ i, decode w s.rawIn.head? = .ok i ∧ step s = exec i (u.takeRaw w)) ∨
       (∃ op, decode w s.rawIn.head? = .error (.illegalOp op) ∧
         step s = .next (u.raise .illegalOp)) ∨
       (decode w s.rawIn.head? = .error .rawPending ∧ s.inflight = none ∧
         step s = .next u))) := by
  have host : ∀ u : State, s.nextAction = u.hostTurn →
      (∃ t, u.hostTurn = .settled t ∧ step s = .next t) ∨
      (∃ r, u.hostTurn = .refuse r ∧ step s = .refused r) := by
    intro u hu
    cases e : u.hostTurn with
    | run i v => exact absurd e (hostTurn_ne_run u v i)
    | settled t => exact .inl ⟨t, rfl, by simp [step, hu, e]⟩
    | refuse r => exact .inr ⟨r, rfl, by simp [step, hu, e]⟩
  have issue : ∀ (w : CommandWord) (u : State) (pending : Action),
      s.nextAction = u.issue w pending → u.rawIn = s.rawIn →
      (∃ i, decode w s.rawIn.head? = .ok i ∧ step s = exec i (u.takeRaw w)) ∨
      (∃ op, decode w s.rawIn.head? = .error (.illegalOp op) ∧
        step s = .next (u.raise .illegalOp)) ∨
      (decode w s.rawIn.head? = .error .rawPending ∧ s.nextAction = pending) := by
    intro w u pending hu hr
    rcases issue_cases w pending u with ⟨i, hd, e⟩ | ⟨op, hd, e⟩ | ⟨hd, e⟩
    · exact .inl ⟨i, hr ▸ hd, by simp [step, hu, e]⟩
    · exact .inr (.inl ⟨op, hr ▸ hd, by simp [step, hu, e]⟩)
    · exact .inr (.inr ⟨hr ▸ hd, hu.trans e⟩)
  rcases turn_cases s.clearStatus with ⟨_, _, e⟩ | ⟨hh, ⟨a, rest, ha⟩, e⟩ | ⟨hh, w, hi, e⟩ |
    ⟨_, _, _, e⟩ | ⟨_, _, _, e⟩ | ⟨hh, hi, hr, w, hc, e⟩
  · exact (host _ e).elim .inl (.inr ∘ .inl)
  · refine .inr (.inr (.inl ⟨a, rest, hh, ha, ?_⟩))
    have ha' : s.answers = a :: rest := ha
    simp [step, State.nextAction, e, State.awaitAnswer, ha']
  · rcases issue w s.clearStatus _ e rfl with h | h | ⟨_, h⟩
    · exact .inr (.inr (.inr ⟨w, _, ⟨hh, .inl ⟨hi, rfl⟩⟩, .inl h⟩))
    · exact .inr (.inr (.inr ⟨w, _, ⟨hh, .inl ⟨hi, rfl⟩⟩, .inr (.inl h)⟩))
    · exact (host _ h).elim .inl (.inr ∘ .inl)
  · exact (host _ e).elim .inl (.inr ∘ .inl)
  · exact (host _ e).elim .inl (.inr ∘ .inl)
  · refine .inr (.inr (.inr ⟨w, s.clearStatus.accept w, ⟨hh, .inr ⟨hi, hr, hc, rfl⟩⟩, ?_⟩))
    rcases issue w (s.clearStatus.accept w) _ e rfl with h | h | ⟨hd, h⟩
    · exact .inl h
    · exact .inr (.inl h)
    · exact .inr (.inr ⟨hd, hi, by simp [step, h]⟩)

end Sys2Proof.Machine
end

