-- ==== Sys2Proof/Tests/Slice0.lean ====
section
/-! SUPPORT. The model's own tests. Expected bytes and words are those of 95_test_vectors.md
or hand calculation from the rule named. The last part gives, for each statement with
hypotheses, a concrete state and operands that meet them all. -/

namespace Sys2Proof.Tests

open Sys2Proof.Machine

/-! ### Helpers -/

/-- An idle block with a sink attached that has one answer `ok` ready. -/
def idle (addr : Byte) : State := { State.resetWith addr true with answers := [.ok] }

/-- Some failure indication. -/
def someError : SinkError := ⟨0, Nat.succ_pos _⟩

/-- The state an outcome carries. -/
def after : Host.Outcome State Fault Refusal → Option State
  | .next t => some t
  | .fault _ => none
  | .refused _ => none

/-- The byte sequences handed off, as numbers, and the codes of the statuses. -/
def seen (o : Host.Outcome State Fault Refusal) : Option (List (List Nat) × List Nat) :=
  (after o).map fun t =>
    (t.sinkTrace.map (·.map BitVec.toNat), t.statusLog.map fun st => (statusCode st).toNat)

/-- What a command does at an idle block with the sink's answer `ok`. -/
def run (addr : Byte) (i : Instr) : Option (List (List Nat) × List Nat) := seen (exec i (idle addr))

/-- One step with the word `w` at the command port of an idle block. -/
def stepWord (sink : Bool) (w : CommandWord) : Option (List (List Nat) × List Nat) :=
  seen (step { idle 0x01#8 with sinkPresent := sink, command := some w })

/-- A busy block: the frame of `stopMotion` awaits its answer. -/
def waitingBlock : State :=
  { State.resetWith 0x01#8 true with
    inflight := some 0x0000000000#37
    handOff := some [0xFF#8, 0x01#8, 0#8, 0#8, 0#8, 0#8, 0x01#8]
    sinkTrace := [[0xFF#8, 0x01#8, 0#8, 0#8, 0#8, 0#8, 0x01#8]]
    transient := ⟨⟨0xFF#8, 0x01#8, 0#8, 0#8, 0#8, 0#8, 0x01#8⟩, 7, 0x01#8, 0⟩ }

/-- A block that collects the operand of `sendRaw`. -/
def collectingBlock : State :=
  { State.resetWith 0x01#8 true with inflight := some 0x1C00000000#37 }

/-! ### WellFormed -/

theorem test_overlong_raw_is_ill_formed (b : Byte) :
    (Instr.sendRaw (List.replicate (Config.rawMax + 1) b)).wellFormed = false := by
  simp [Instr.wellFormed]

theorem test_longest_raw_is_well_formed (b : Byte) :
    (Instr.sendRaw (List.replicate Config.rawMax b)).wellFormed = true := by
  simp [Instr.wellFormed]

theorem test_seven_raw_bytes_are_well_formed (b : Byte) :
    (Instr.sendRaw (List.replicate 7 b)).wellFormed = true := by
  simp [Instr.wellFormed, Config.rawMax]

/-- A NaN is well formed: the block answers it with a status (R183). -/
theorem test_nan_is_well_formed : (Instr.setPanPositionDeg 0x7FC00000#32).wellFormed = true := rfl

/-! ### Decode: a word of every row of R60, written out op then arg (R58) -/

theorem test_decode_stopMotion :
    decode 0b00000_00000000000000000000000000000000#37 none = .ok .stopMotion := by decide
theorem test_decode_panLeft :
    decode 0b00001_00000000000000000000000000100000#37 none = .ok (.panLeft 32#8) := by decide
theorem test_decode_panRight :
    decode 0b00010_11111111111111111111111100000001#37 none = .ok (.panRight 1#8) := by decide
theorem test_decode_tiltUp :
    decode 0b00011_00000000000000000000000010000000#37 none = .ok (.tiltUp 128#8) := by decide
theorem test_decode_tiltDown :
    decode 0b00100_00000000000000000000000000100000#37 none = .ok (.tiltDown 32#8) := by decide
theorem test_decode_moveLeftUp :
    decode 0b00101_00000000000000000000000000111111#37 none = .ok (.moveLeftUp 63#8) := by decide
theorem test_decode_moveRightUp :
    decode 0b00110_00000000000000000000000000111110#37 none = .ok (.moveRightUp 62#8) := by decide
theorem test_decode_moveLeftDown :
    decode 0b00111_00000000000000000000000100000000#37 none = .ok (.moveLeftDown 0#8) := by decide
theorem test_decode_moveRightDown :
    decode 0b01000_00000000000000000000000011111111#37 none = .ok (.moveRightDown 255#8) := by decide
theorem test_decode_zoomIn :
    decode 0b01001_11111111111111111111111111111111#37 none = .ok .zoomIn := by decide
theorem test_decode_zoomOut :
    decode 0b01010_00000000000000000000000000000000#37 none = .ok .zoomOut := by decide
theorem test_decode_focusIn :
    decode 0b01011_00000000000000000000000000000000#37 none = .ok .focusIn := by decide
theorem test_decode_focusOut :
    decode 0b01100_00000000000000000000000000000000#37 none = .ok .focusOut := by decide
theorem test_decode_irisIn :
    decode 0b01101_00000000000000000000000000000000#37 none = .ok .irisIn := by decide
theorem test_decode_irisOut :
    decode 0b01110_00000000000000000000000000000000#37 none = .ok .irisOut := by decide
theorem test_decode_setPreset :
    decode 0b10000_00000000000000000000000000000101#37 none = .ok (.setPreset 5#32) := by decide
theorem test_decode_clearPreset :
    decode 0b10001_00000000000000000000000100101100#37 none = .ok (.clearPreset 300#32) := by decide
theorem test_decode_callPreset :
    decode 0b10010_11111111111111111111111111111111#37 none =
      .ok (.callPreset 0xFFFFFFFF#32) := by decide
theorem test_decode_setPanPositionU :
    decode 0b10011_00000000000000001000110010100000#37 none =
      .ok (.setPanPositionU 36000#32) := by decide
theorem test_decode_setTiltPositionU :
    decode 0b10100_00000000000000000001000110010100#37 none =
      .ok (.setTiltPositionU 4500#32) := by decide
theorem test_decode_setZoomPositionU :
    decode 0b10101_00000000000000010000000000000000#37 none =
      .ok (.setZoomPositionU 65536#32) := by decide
theorem test_decode_queryPanPosition :
    decode 0b10110_00000000000000000000000000000000#37 none = .ok .queryPanPosition := by decide
theorem test_decode_queryTiltPosition :
    decode 0b10111_00000000000000000000000000000000#37 none = .ok .queryTiltPosition := by decide
theorem test_decode_queryZoomPosition :
    decode 0b11000_00000000000000000000000000000000#37 none = .ok .queryZoomPosition := by decide
theorem test_decode_setPanPositionDeg :
    decode 0b11001_01000010101101000000000000000000#37 none =
      .ok (.setPanPositionDeg 0x42B40000#32) := by decide
theorem test_decode_setTiltPositionDeg :
    decode 0b11010_11000010001101000000000000000000#37 none =
      .ok (.setTiltPositionDeg 0xC2340000#32) := by decide
theorem test_decode_setZoomPositionRatio :
    decode 0b11011_00111111000000000000000000000000#37 none =
      .ok (.setZoomPositionRatio 0x3F000000#32) := by decide
theorem test_decode_sendRaw :
    decode 0b11100_00000000000000000000000000000000#37 (some [0x12#8, 0x34#8]) =
      .ok (.sendRaw [0x12#8, 0x34#8]) := by decide
theorem test_decode_sendRaw_pending :
    decode 0b11100_00000000000000000000000000000000#37 none = .error .rawPending := by decide

/-- The four unassigned ops (R62), with the arguments of section 6. -/
theorem test_decode_unassigned :
    [0x0F00000000#37, 0x1D12345678#37, 0x1E7FC00000#37, 0x1FFFFFFFFF#37].map (decode · none) =
      [.error (.illegalOp 0x0F#5), .error (.illegalOp 0x1D#5), .error (.illegalOp 0x1E#5),
       .error (.illegalOp 0x1F#5)] := by decide

theorem test_encode :
    encode (.panLeft 32#8) = 0x0100000020#37 ∧ encode .stopMotion = 0x0000000000#37 ∧
    encode (.setTiltPositionDeg 0xC2340000#32) = 0x1AC2340000#37 ∧
    encode (.sendRaw [0xFF#8]) = 0x1C00000000#37 := by decide

/-- Table words of 40 bits, the op in bits 36 to 32 (R68). -/
theorem test_decodeTableWord :
    decodeTableWord 40 0x0100000020 = some (.panLeft 32#8) ∧
    decodeTableWord 40 0x1C00000000 = some (.sendRaw []) ∧
    decodeTableWord 40 0x0F00000000 = none := by decide

/-! ### The packer and the checksum (sections 3 and 4 of 95_test_vectors.md) -/

theorem test_pack_all_flags :
    pack ⟨true, true, true, true, true, true, true, true, true, true, true, true, true⟩ =
      (0x9F#8, 0xFE#8) := by decide

theorem test_pack_camera_sense_scan :
    pack { sense := true, cameraOnOff := true } = (0x88#8, 0x00#8) ∧
    pack { autoManualScan := true } = (0x10#8, 0x00#8) ∧
    pack { focusNear := true, left := true } = (0x01#8, 0x04#8) := by decide

/-- The largest sum, 0x4FB, and a sum of exactly 256. -/
theorem test_checksum_wraps :
    ((State.resetWith 0xFF#8 true).buildFrame 0xFF#8 0xFF#8 0xFF#8 0xFF#8).transient.fb.checksum
      = 0xFB#8 ∧
    ((State.resetWith 0x80#8 true).buildFrame 0x80#8 0#8 0#8 0#8).transient.fb.checksum
      = 0x00#8 := by decide

/-! ### The commands (sections 1 and 5) -/

theorem test_stopMotion : run 0xFF#8 .stopMotion = some ([[0xFF, 0xFF, 0, 0, 0, 0, 0xFF]], [0]) := by
  decide
theorem test_panLeft : run 0x01#8 (.panLeft 32#8) =
    some ([[0xFF, 0x01, 0, 0x04, 0x20, 0, 0x25]], [0]) := by decide
theorem test_panLeft_clamps : run 0x01#8 (.panLeft 255#8) =
    some ([[0xFF, 0x01, 0, 0x04, 0x3F, 0, 0x44]], [0]) := by decide
theorem test_panRight : run 0x01#8 (.panRight 62#8) =
    some ([[0xFF, 0x01, 0, 0x02, 0x3E, 0, 0x41]], [0]) := by decide
theorem test_tiltUp : run 0x01#8 (.tiltUp 32#8) =
    some ([[0xFF, 0x01, 0, 0x08, 0, 0x20, 0x29]], [0]) := by decide
theorem test_tiltDown : run 0x7F#8 (.tiltDown 1#8) =
    some ([[0xFF, 0x7F, 0, 0x10, 0, 0x01, 0x90]], [0]) := by decide
theorem test_moveLeftUp : run 0x10#8 (.moveLeftUp 63#8) =
    some ([[0xFF, 0x10, 0, 0x0C, 0x3F, 0x3F, 0x9A]], [0]) := by decide
theorem test_moveRightUp : run 0x01#8 (.moveRightUp 64#8) =
    some ([[0xFF, 0x01, 0, 0x0A, 0x3F, 0x3F, 0x89]], [0]) := by decide
theorem test_moveLeftDown : run 0x01#8 (.moveLeftDown 32#8) =
    some ([[0xFF, 0x01, 0, 0x14, 0x20, 0x20, 0x55]], [0]) := by decide
theorem test_moveRightDown : run 0x7F#8 (.moveRightDown 1#8) =
    some ([[0xFF, 0x7F, 0, 0x12, 0x01, 0x01, 0x93]], [0]) := by decide

theorem test_zoomIn : run 0xFF#8 .zoomIn = some ([[0xFF, 0xFF, 0, 0x20, 0, 0, 0x1F]], [0]) := by
  decide
theorem test_zoomOut : run 0x01#8 .zoomOut = some ([[0xFF, 0x01, 0, 0x40, 0, 0, 0x41]], [0]) := by
  decide
theorem test_focusIn : run 0xFF#8 .focusIn = some ([[0xFF, 0xFF, 0x01, 0, 0, 0, 0x00]], [0]) := by
  decide
theorem test_focusOut : run 0x01#8 .focusOut = some ([[0xFF, 0x01, 0, 0x80, 0, 0, 0x81]], [0]) := by
  decide
theorem test_irisIn : run 0x01#8 .irisIn = some ([[0xFF, 0x01, 0x02, 0, 0, 0, 0x03]], [0]) := by
  decide
theorem test_irisOut : run 0xFF#8 .irisOut = some ([[0xFF, 0xFF, 0x04, 0, 0, 0, 0x03]], [0]) := by
  decide

theorem test_setPreset : run 0x01#8 (.setPreset 42#32) =
    some ([[0xFF, 0x01, 0, 0x03, 0, 0x2A, 0x2E]], [0]) := by decide
theorem test_setPreset_saturates : run 0x01#8 (.setPreset 256#32) =
    some ([[0xFF, 0x01, 0, 0x03, 0, 0xFF, 0x03]], [0]) := by decide
theorem test_clearPreset : run 0x01#8 (.clearPreset 300#32) =
    some ([[0xFF, 0x01, 0, 0x05, 0, 0xFF, 0x05]], [0]) := by decide
theorem test_callPreset : run 0x01#8 (.callPreset 42#32) =
    some ([[0xFF, 0x01, 0, 0x07, 0, 0x2A, 0x32]], [0]) := by decide

theorem test_setPanPositionU : run 0x01#8 (.setPanPositionU 256#32) =
    some ([[0xFF, 0x01, 0, 0x4B, 0x01, 0, 0x4D]], [0]) := by decide
theorem test_setPanPositionU_saturates : run 0x01#8 (.setPanPositionU 65536#32) =
    some ([[0xFF, 0x01, 0, 0x4B, 0x8C, 0x9F, 0x77]], [0]) := by decide
theorem test_setTiltPositionU : run 0x01#8 (.setTiltPositionU 4500#32) =
    some ([[0xFF, 0x01, 0, 0x4D, 0x11, 0x94, 0xF3]], [0]) := by decide
theorem test_setTiltPositionU_saturates : run 0x01#8 (.setTiltPositionU 40000#32) =
    some ([[0xFF, 0x01, 0, 0x4D, 0x8C, 0x9F, 0x79]], [0]) := by decide
theorem test_setZoomPositionU : run 0x01#8 (.setZoomPositionU 40000#32) =
    some ([[0xFF, 0x01, 0, 0x4F, 0x9C, 0x40, 0x2C]], [0]) := by decide
theorem test_setZoomPositionU_saturates : run 0x01#8 (.setZoomPositionU 65536#32) =
    some ([[0xFF, 0x01, 0, 0x4F, 0xFF, 0xFF, 0x4E]], [0]) := by decide

theorem test_queryPanPosition : run 0xFF#8 .queryPanPosition =
    some ([[0xFF, 0xFF, 0, 0x51, 0, 0, 0x50]], [0]) := by decide
theorem test_queryTiltPosition : run 0x01#8 .queryTiltPosition =
    some ([[0xFF, 0x01, 0, 0x53, 0, 0, 0x54]], [0]) := by decide
theorem test_queryZoomPosition : run 0xFF#8 .queryZoomPosition =
    some ([[0xFF, 0xFF, 0, 0x55, 0, 0, 0x54]], [0]) := by decide

/-- V6: -45 degrees. -/
theorem test_setTiltPositionDeg : run 0x01#8 (.setTiltPositionDeg 0xC2340000#32) =
    some ([[0xFF, 0x01, 0, 0x4D, 0x11, 0x94, 0xF3]], [0]) := by decide +kernel
theorem test_setTiltPositionDeg_nan : run 0x01#8 (.setTiltPositionDeg 0x7F800001#32) =
    some ([], [2]) := by decide +kernel
/-- V5: 400 degrees. -/
theorem test_setPanPositionDeg : run 0x01#8 (.setPanPositionDeg 0x43C80000#32) =
    some ([[0xFF, 0x01, 0, 0x4B, 0x8C, 0x9F, 0x77]], [0]) := by decide +kernel
theorem test_setPanPositionDeg_nan : run 0x01#8 (.setPanPositionDeg 0x7FC00000#32) =
    some ([], [2]) := by decide +kernel
theorem test_setZoomPositionRatio : run 0x01#8 (.setZoomPositionRatio 0x3DCCCCCD#32) =
    some ([[0xFF, 0x01, 0, 0x4F, 0x19, 0x9A, 0x03]], [0]) := by decide +kernel
theorem test_setZoomPositionRatio_nan : run 0x01#8 (.setZoomPositionRatio 0xFFFFFFFF#32) =
    some ([], [2]) := by decide +kernel

/-- A wrong checksum is forwarded as it is, whatever `ADDR` is. -/
theorem test_sendRaw :
    exec (.sendRaw [0xFF#8, 0x01#8, 0x00#8, 0x04#8, 0x20#8, 0x00#8, 0x00#8]) (idle 0x09#8) =
      .next ((idle 0x09#8).emit [0xFF#8, 0x01#8, 0x00#8, 0x04#8, 0x20#8, 0x00#8, 0x00#8]) := by
  simp [exec, execSendRaw, Config.rawMax]

/-- The empty sequence is one hand-off (R179). -/
theorem test_sendRaw_empty : run 0x01#8 (.sendRaw []) = some ([[]], [0]) := by
  simp [run, exec, execSendRaw, Config.rawMax]; decide

/-! ### The scaler (sections 2.3 to 2.5): words, and the units they give -/

/-- The units of a real operand, none for a NaN. -/
def units (f : ExtReal → Nat) (w : Arg) : Option Nat := (f32Val w).map f

theorem test_pan_units :
    [0x80000000#32, 0x00000001#32, 0x3BA3D70A#32, 0x3E000000#32, 0x42F6E666#32, 0x43B3FF5C#32,
     0x43B40000#32, 0x7149F2CA#32, 0x7F800000#32, 0xC0A00000#32, 0xFF800000#32, 0x7FC00000#32].map
      (units panUnits) =
    [some 0, some 0, some 0, some 13, some 12345, some 35999, some 35999, some 35999, some 35999,
     some 0, some 0, none] := by decide +kernel

theorem test_tilt_units :
    [0x80000000#32, 0x41F00000#32, 0xC14570A4#32, 0x42B3FAE1#32, 0x42C80000#32, 0xC2C80000#32,
     0x7F800000#32, 0xFF800000#32, 0x3E000000#32, 0xBE000000#32, 0x3BA71DE7#32, 0x3A83126F#32,
     0x00000001#32, 0x80000001#32, 0x7FC00001#32].map (units tiltUnits) =
    [some 0, some 33000, some 1234, some 27001, some 27000, some 9000, some 27000, some 9000,
     some 35988, some 13, some 35999, some 35999, some 35999, some 0, none] := by decide +kernel

theorem test_zoom_units :
    [0x00000001#32, 0x3727C5AC#32, 0x3F000000#32, 0x3F400000#32, 0x3F7FFF80#32, 0x40000000#32,
     0x7F800000#32, 0xBF800000#32, 0xFFC00000#32].map (units zoomUnits) =
    [some 0, some 1, some 32768, some 49151, some 65535, some 65535, some 65535, some 0, none] := by
  decide +kernel

/-! ### The step and the statuses (section 6) -/

theorem test_step_runs_the_word : stepWord true 0x0100000020#37 =
    some ([[0xFF, 0x01, 0, 0x04, 0x20, 0, 0x25]], [0]) := by decide
theorem test_step_sink_absent : stepWord false 0x0000000000#37 = some ([], [3]) := by decide
theorem test_step_illegal_op_first : stepWord false 0x1FFFFFFFFF#37 = some ([], [1]) := by decide
theorem test_step_nan_before_absent : stepWord false 0x197FC00000#37 = some ([], [2]) := by
  decide +kernel
theorem test_step_sink_fail :
    seen (step { idle 0x01#8 with command := some 0x0100000020#37, answers := [.fail someError] })
      = some ([[0xFF, 0x01, 0, 0x04, 0x20, 0, 0x25]], [4]) := by decide

/-- A run with SinkAbsent has gone wrong (U7); a run with IllegalOp has not. -/
theorem test_goneWrong :
    (after (step { State.resetWith 0x01#8 false with command := some 0#37 })).map State.goneWrong
      = some true ∧
    (after (step { State.resetWith 0x01#8 false with command := some 0x0F00000000#37 })).map
      State.goneWrong = some false := by
  constructor <;> decide +kernel

/-- Right after reset the next step takes a table word's command and hands its frame off. -/
theorem test_withFetchWord :
    seen (step (State.reset.withFetchWord 40 0x0100000020)) =
      some ([[0xFF, 0x01, 0, 0x04, 0x20, 0, 0x25]], []) := by decide

/-- A `sendRaw` accepted before its operand gets it by the host's delivery (R178, log 21). -/
theorem test_deliverRaw_reaches_the_held_sendRaw :
    (after (step { collectingBlock with events := [.deliverRaw [0x12#8]] })).map
      (fun t => (t.rawIn, t.inflight)) = some ([[0x12#8]], some 0x1C00000000#37) := by decide

/-- Reset with another strap gives another address (R210, R220). -/
theorem test_reset_latches_the_strap :
    (after (step { State.resetWith 0x01#8 true with
      rst := true, addrStrap := 0x7F#8, events := [.driveReset false] })).map State.addr
      = some 0x7F#8 := by decide

/-! ### Witnesses: each shows a state and operands that meet the hypotheses of the statement
it is named after. Where a statement has several clauses, or a range, the ends are shown. -/

theorem witness_EncodeThenDecodeGivesTheCommand :
    (∀ r, Instr.panLeft 32#8 = .sendRaw r → (none : Option (List Byte)) = some r) ∧
    (∀ r, Instr.sendRaw [0x12#8] = .sendRaw r → some [0x12#8] = some r) := by
  constructor
  · intro r h; cases h
  · intro r h; cases h; rfl

theorem witness_DecodedWordIsTheEncodingOfItsCommand :
    decode 0x01FFFFFF20#37 none = .ok (.panLeft 32#8) ∧
    decode 0x1CFFFFFFFF#37 (some []) = .ok (.sendRaw []) := by decide

theorem witness_DecodeIgnoresTheIgnoredBits :
    opOf 0x01FFFFFF20#37 = opOf 0x0100000020#37 ∧
    argOf 0x01FFFFFF20#37 &&& operandBits (opOf 0x01FFFFFF20#37) =
      argOf 0x0100000020#37 &&& operandBits (opOf 0x01FFFFFF20#37) := by decide

theorem witness_PackerSetsExactlyTheNamedBits :
    pack { left := true } = pack { right := false, left := true } := rfl

theorem witness_AccumulatorIsTheSumInAnyOrder :
    [0#8, 0#8, 0x20#8, 0x04#8, 0x01#8].Perm
      (let f : Frame := ⟨0xFF#8, 0x01#8, 0#8, 0x04#8, 0x20#8, 0#8, 0#8⟩
       [f.address, f.command1, f.command2, f.data1, f.data2]) := by decide

theorem witness_RoundingIsToNearestHalfUp :
    (0 : ℚ) ≤ 1 / 2 ∧ rnd (1 / 2) = 1 ∧ (0 : ℚ) ≤ 0 ∧ rnd 0 = 0 := by decide +kernel

theorem witness_Binary32WordsAreReadInOrder :
    (0x7F7FFFFF#32).toNat < 0x7F800000 ∧
    (2 ^ 31 ≤ (0x80000000#32).toNat ∧ (0x80000000#32).toNat < 0xFF800000) ∧
    (2 ^ 31 ≤ (0xFF7FFFFF#32).toNat ∧ (0xFF7FFFFF#32).toNat < 0xFF800000) ∧
    ((0x007FFFFF#32).toNat < (0x00800000#32).toNat ∧ (0x00800000#32).toNat < 0x7F800000) ∧
    (f32Val 0x7F800001#32 = none ∧ f32Val 0xFFFFFFFF#32 = none ∧
      f32Val 0x7F800000#32 = some .posInf ∧ f32Val 0xFF800000#32 = some .negInf) := by
  decide +kernel

/-- The ends of the pan domain, and the last value before the upper bound. -/
theorem witness_PanUnitsClampAndRound :
    ((0 : ℚ) ≤ 0 ∧ panUnits (.fin 0) = 0) ∧ ((360 : ℚ) ≤ 360 ∧ panUnits (.fin 360) = 35999) ∧
    ((0 : ℚ) ≤ 35998 / 100 ∧ panUnits (.fin (35998 / 100)) = 35998) := by decide +kernel

/-- The ends of the tilt ranges, and values at each side of zero. -/
theorem witness_TiltUnitsMapAsymmetrically :
    ((-90 : ℚ) ≤ -90 ∧ tiltUnits (.fin (-90)) = 9000) ∧
    ((90 : ℚ) ≤ 90 ∧ tiltUnits (.fin 90) = 27000) ∧
    ((-90 : ℚ) ≤ -1 / 100 ∧ (-1 / 100 : ℚ) < 0 ∧ tiltUnits (.fin (-1 / 100)) = 1) ∧
    ((0 : ℚ) < 1 / 100 ∧ (1 / 100 : ℚ) ≤ 90 ∧ tiltUnits (.fin (1 / 100)) = 35999) := by
  decide +kernel

theorem witness_ZoomUnitsClampAndRound :
    ((0 : ℚ) ≤ 0 ∧ zoomUnits (.fin 0) = 0) ∧ ((1 : ℚ) ≤ 1 ∧ zoomUnits (.fin 1) = 65535) ∧
    ((0 : ℚ) ≤ 65534 / 65535 ∧ zoomUnits (.fin (65534 / 65535)) = 65534) := by decide +kernel

theorem witness_RoundedProductIsIntegerArithmetic :
    f32Class 0x00000001#32 = .finite ∧ f32Class 0x7F7FFFFF#32 = .finite := by decide

/-- The smallest positive operand, and 90 degrees. -/
theorem witness_PositiveTiltIsIntegerArithmetic :
    (f32Class 0x00000001#32 = .finite ∧ 0 < f32Magnitude 0x00000001#32 ∧
      f32Magnitude 0x00000001#32 ≤ 90) ∧
    (f32Class 0x42B40000#32 = .finite ∧ 0 < f32Magnitude 0x42B40000#32 ∧
      f32Magnitude 0x42B40000#32 ≤ 90) := by decide +kernel

/-- A sink is attached, and an answer of either kind is ready. -/
theorem witness_StopMotionDeliversTheNeutralFrame :
    ((idle 0x01#8).sinkPresent = true ∧ (idle 0x01#8).answers = .ok :: []) ∧
    ({ idle 0x01#8 with answers := [.fail someError] }.sinkPresent = true ∧
      { idle 0x01#8 with answers := [.fail someError] }.answers = .fail someError :: []) :=
  ⟨⟨rfl, rfl⟩, rfl, rfl⟩

theorem witness_SingleAxisMovesDeliverTheirFrames :
    (idle 0x01#8).sinkPresent = true ∧ (idle 0x01#8).answers = .ok :: [] := ⟨rfl, rfl⟩

theorem witness_CombinedMovesDeliverTheirFrames :
    (idle 0x01#8).sinkPresent = true ∧ (idle 0x01#8).answers = .ok :: [] := ⟨rfl, rfl⟩

theorem witness_LensCommandsDeliverTheirFrames :
    (idle 0x01#8).sinkPresent = true ∧ (idle 0x01#8).answers = .ok :: [] := ⟨rfl, rfl⟩

theorem witness_PresetCommandsDeliverTheirFrames :
    (idle 0x01#8).sinkPresent = true ∧ (idle 0x01#8).answers = .ok :: [] := ⟨rfl, rfl⟩

theorem witness_UnitPositionSettersDeliverTheirFrames :
    (idle 0x01#8).sinkPresent = true ∧ (idle 0x01#8).answers = .ok :: [] := ⟨rfl, rfl⟩

theorem witness_QueriesDeliverTheirFrames :
    (idle 0x01#8).sinkPresent = true ∧ (idle 0x01#8).answers = .ok :: [] := ⟨rfl, rfl⟩

theorem witness_RealPositionSettersDeliverTheirFrames :
    (idle 0x01#8).sinkPresent = true ∧ (idle 0x01#8).answers = .ok :: [] ∧
    f32Val 0x42B40000#32 = some (.fin 90) :=
  ⟨rfl, rfl, by decide +kernel⟩

theorem witness_SendRawDeliversItsBytesUnchanged :
    (idle 0x01#8).sinkPresent = true ∧ (idle 0x01#8).answers = .ok :: [] ∧
    ([] : List Byte).length ≤ Config.rawMax ∧
    (List.replicate Config.rawMax 0x12#8).length ≤ Config.rawMax :=
  ⟨rfl, rfl, by simp, by simp⟩

theorem witness_RealFormsAreUnitFormsOfTheScaledOperand :
    f32Val 0x80000000#32 = some (.fin 0) ∧ f32Val 0x7F800000#32 = some .posInf := by
  decide +kernel

theorem witness_NaNOperandsFaultBeforeTheSink :
    f32Val 0x7F800001#32 = none ∧ f32Val 0xFFFFFFFF#32 = none := by decide +kernel

theorem witness_WithoutSinkEveryCommandFaults :
    (State.resetWith 0x01#8 false).sinkPresent = false ∧
    (Instr.sendRaw []).wellFormed = true ∧ operandIsNaN (.sendRaw []) = false ∧
    (Instr.setPanPositionDeg 0#32).wellFormed = true ∧
    operandIsNaN (.setPanPositionDeg 0#32) = false :=
  ⟨rfl, by simp [Instr.wellFormed], rfl, rfl, by decide +kernel⟩

theorem witness_UnansweredHandOffLeavesTheCommandWaiting :
    State.reset.sinkPresent = true ∧ State.reset.answers = [] ∧
    Instr.stopMotion.wellFormed = true ∧ operandIsNaN .stopMotion = false :=
  ⟨rfl, rfl, rfl, rfl⟩

theorem witness_OnlyAnOverlongRawOperandIsRefused :
    exec (.sendRaw (List.replicate (Config.rawMax + 1) 0#8)) State.reset =
      .refused .rawTooLong ∧
    Config.rawMax < (List.replicate (Config.rawMax + 1) 0#8).length := by
  simp [exec, execSendRaw]

theorem witness_EveryFramedHandOffIsATableFrame :
    isFramed .stopMotion ∧ ∃ t, exec .stopMotion (idle 0x01#8) = .next t :=
  ⟨fun _ h => (by cases h), _, rfl⟩

theorem witness_NoCommandWritesTheAddressOrAnInput :
    ∃ t, exec (.callPreset 5#32) (idle 0x01#8) = .next t := ⟨_, rfl⟩

/-- A delivered command, a waiting one, and a fault. -/
theorem witness_OneHandOffOrAFaultWithNone :
    (∃ t, exec .zoomIn (idle 0x01#8) = .next t) ∧
    (∃ t, exec .zoomIn State.reset = .next t) ∧
    (∃ t, exec .zoomIn (State.resetWith 0x01#8 false) = .next t) := ⟨⟨_, rfl⟩, ⟨_, rfl⟩, _, rfl⟩

theorem witness_CommandsDependOnNothingEarlier :
    (idle 0x01#8).addr = { idle 0x01#8 with statusLog := [.illegalOp] }.addr ∧
    (idle 0x01#8).sinkPresent = { idle 0x01#8 with statusLog := [.illegalOp] }.sinkPresent ∧
    (idle 0x01#8).answers = { idle 0x01#8 with statusLog := [.illegalOp] }.answers ∧
    ∃ t, exec .irisIn (idle 0x01#8) = .next t := ⟨rfl, rfl, rfl, _, rfl⟩

theorem witness_SendRawDoesNotReadTheAddress :
    ∃ t, exec (.sendRaw []) (idle 0x01#8) = .next t :=
  ⟨(idle 0x01#8).emit [], by simp [exec, execSendRaw]⟩

theorem witness_StatusCodesAreZeroToFour :
    statusCode (.sinkFail someError) = statusCode (.sinkFail someError) ∧
    statusHandedOff .ok = true := ⟨rfl, rfl⟩

/-- A command without an operand on the raw-data channel, and `sendRaw` with one. -/
theorem witness_StepRunsTheDecodedCommand :
    (let s := { idle 0x01#8 with command := some 0x0100000020#37 }
     s.handOff = none ∧ s.inflight = none ∧ s.rst = false ∧ s.command = some 0x0100000020#37 ∧
     decode 0x0100000020#37 s.rawIn.head? = .ok (.panLeft 32#8)) ∧
    (let s := { idle 0x01#8 with command := some 0x1C00000000#37, rawIn := [[0x12#8]] }
     s.handOff = none ∧ s.inflight = none ∧ s.rst = false ∧ s.command = some 0x1C00000000#37 ∧
     decode 0x1C00000000#37 s.rawIn.head? = .ok (.sendRaw [0x12#8])) := by decide

theorem witness_HeldSendRawRunsWhenItsOperandArrives :
    (let s := { collectingBlock with rawIn := [[0x12#8]] }
     s.handOff = none ∧ s.inflight = some 0x1C00000000#37 ∧ opOf 0x1C00000000#37 = 0x1C#5 ∧
     s.rawIn = [0x12#8] :: []) ∧
    (collectingBlock.handOff = none ∧ collectingBlock.inflight = some 0x1C00000000#37 ∧
     opOf 0x1C00000000#37 = 0x1C#5 ∧ collectingBlock.rawIn = [] ∧
     collectingBlock.events = []) := by decide

theorem witness_DeliveredOperandWaitsOrRunsTheHeldSendRaw :
    (let s := { State.resetWith 0x01#8 true with events := [.deliverRaw [0x12#8]] }
     s.handOff = none ∧ s.events = .deliverRaw [0x12#8] :: [] ∧ s.inflight = none ∧
     s.command = none) ∧
    (let s := { collectingBlock with events := [.deliverRaw []] }
     s.handOff = none ∧ s.events = .deliverRaw [] :: [] ∧ s.inflight = some 0x1C00000000#37 ∧
     opOf 0x1C00000000#37 = 0x1C#5 ∧ s.rawIn = []) := by decide

theorem witness_UnassignedOpCompletesWithIllegalOp :
    let s := { State.resetWith 0x01#8 false with command := some 0x0F00000000#37 }
    s.handOff = none ∧ s.inflight = none ∧ s.rst = false ∧ s.command = some 0x0F00000000#37 ∧
    opOf 0x0F00000000#37 ∈ unassignedOps ∧ opOf 0x1FFFFFFFFF#37 ∈ unassignedOps := by decide

theorem witness_AnswerCompletesTheAwaitedHandOff :
    let s := { waitingBlock with answers := [.fail someError, .ok] }
    s.handOff = some [0xFF#8, 0x01#8, 0#8, 0#8, 0#8, 0#8, 0x01#8] ∧
    s.answers = .fail someError :: [.ok] := ⟨rfl, rfl⟩

theorem witness_SilentSinkHangsTheBlock :
    waitingBlock.handOff = some [0xFF#8, 0x01#8, 0#8, 0#8, 0#8, 0#8, 0x01#8] ∧
    waitingBlock.answers = [] ∧ waitingBlock.events = [] ∧ waitingBlock.statusPort = none :=
  ⟨rfl, rfl, rfl, rfl⟩

theorem witness_BusyBlockAcceptsNoCommand :
    let s := { waitingBlock with command := some 0x0100000020#37, answers := [.ok] }
    s.ready = false ∧ s.command = some 0x0100000020#37 ∧ ∃ t, step s = .next t :=
  ⟨rfl, rfl, _, rfl⟩

theorem witness_StepPresentsAtMostOneStatusAndHandOff :
    (∃ t, step { idle 0x01#8 with command := some 0#37 } = .next t) ∧
    (∃ t, step State.reset = .next t) := ⟨⟨_, rfl⟩, _, rfl⟩

theorem witness_RunGoesWrongOnlyWithoutASink :
    let s := { State.resetWith 0x01#8 false with command := some 0#37 }
    s.goneWrong = false ∧ ∃ t, step s = .next t ∧ t.goneWrong = true :=
  ⟨by decide, _, rfl, by decide +kernel⟩

theorem witness_ResetReleaseLatchesTheStrap :
    let s := { State.resetWith 0x01#8 true with rst := true, events := [.driveReset false] }
    s.handOff = none ∧ s.inflight = none ∧ s.rst = true ∧
    s.events = .driveReset false :: [] := ⟨rfl, rfl, rfl, rfl⟩

theorem witness_NothingRunsUnderReset :
    let s := { State.resetWith 0x01#8 true with rst := true, command := some 0#37 }
    s.handOff = none ∧ s.inflight = none ∧ s.rst = true ∧ s.command = some 0#37 ∧
    ∃ t, step s = .next t := ⟨rfl, rfl, rfl, rfl, _, rfl⟩

/-- A block without a word at its port, and one already under reset with a word there. -/
theorem witness_ResetAssertedAtAnIdleBlockOnlyHoldsIt :
    (let s := { State.resetWith 0x01#8 true with events := [.driveReset true] }
     s.handOff = none ∧ s.inflight = none ∧ (s.command = none ∨ s.rst = true) ∧
     s.events = .driveReset true :: []) ∧
    (let s := { State.resetWith 0x01#8 true with
       rst := true, command := some 0#37, events := [.driveReset true] }
     s.handOff = none ∧ s.inflight = none ∧ (s.command = none ∨ s.rst = true) ∧
     s.events = .driveReset true :: []) := by decide

theorem witness_ResetAbandonsACollectingCommand :
    let s := { collectingBlock with events := [.driveReset true] }
    s.handOff = none ∧ s.inflight = some 0x1C00000000#37 ∧ opOf 0x1C00000000#37 = 0x1C#5 ∧
    s.rawIn = [] ∧ s.events = .driveReset true :: [] := by decide

theorem witness_ResetDuringAHandOffIsRefused :
    let s := { waitingBlock with events := [.driveReset true] }
    s.handOff = some [0xFF#8, 0x01#8, 0#8, 0#8, 0#8, 0#8, 0x01#8] ∧ s.answers = [] ∧
    s.events = .driveReset true :: [] := ⟨rfl, rfl, rfl⟩

theorem witness_AddressChangesOnlyAtTheReleaseOfReset :
    let s := { State.resetWith 0x01#8 true with
      rst := true, addrStrap := 0x7F#8, events := [.driveReset false] }
    ∃ t, step s = .next t ∧ t.addr ≠ s.addr := ⟨_, rfl, by decide⟩

theorem witness_StrapChangesChangeNothingElse :
    (let s := { State.resetWith 0x01#8 true with events := [.driveAddr 0x02#8] }
     s.handOff = none ∧ s.inflight = none ∧ s.command = none ∧
     s.events = .driveAddr 0x02#8 :: []) ∧
    (let s := { State.resetWith 0x01#8 true with events := [.driveSink false] }
     s.handOff = none ∧ s.inflight = none ∧ s.command = none ∧
     s.events = .driveSink false :: []) := ⟨⟨rfl, rfl, rfl, rfl⟩, rfl, rfl, rfl, rfl⟩

/-- The invariant holds of a block that waits for the sink, and that block steps. -/
theorem witness_EveryStepKeepsTheInvariant :
    waitingBlock.Inv ∧ ∃ t, step waitingBlock = .next t := by
  refine ⟨⟨?_, ?_, ?_, ?_, ?_, ?_⟩, _, rfl⟩
  · decide
  · intro w h hn; cases hn
  · intro h; cases h
  · intro seq h; cases h; rfl
  · intro w seq hw hs _
    cases hw; cases hs
    exact ⟨rfl, 0, 0, 0, 0, by decide, by decide, by decide, by decide, by decide, by decide⟩
  · decide

theorem witness_TransientContentsHaveNoEffect : ∃ t, step waitingBlock = .next t := ⟨_, rfl⟩

theorem witness_FailureIndicationsAreNeverExamined :
    (∃ t, step { waitingBlock with answers := [.fail someError] } = .next t) ∧
    (∃ r, step { waitingBlock with events := [.driveReset true] } = .refused r) :=
  ⟨⟨_, rfl⟩, _, rfl⟩

/-- A `sendRaw`, an unassigned op and a move, with three answers and one raw operand ready. -/
theorem witness_EveryPresentedCommandCompletes :
    let ws : List CommandWord := [0x1C00000000#37, 0x0F00000000#37, 0x0100000020#37]
    let s := { State.resetWith 0x01#8 true with
      events := ws.map .present, answers := [.ok, .ok, .fail someError], rawIn := [[0x12#8]] }
    s.ready = true ∧ s.rst = false ∧ s.command = none ∧ s.events = ws.map .present ∧
    ws.length ≤ s.answers.length ∧
    (ws.filter (fun w => opOf w == 0x1C#5)).length ≤ s.rawIn.length ∧
    ∀ r ∈ s.rawIn, r.length ≤ Config.rawMax := by
  refine ⟨rfl, rfl, rfl, rfl, by decide, by decide, ?_⟩
  intro r h
  have : r = [0x12#8] := by simpa using h
  simp [this, Config.rawMax]

end Sys2Proof.Tests
end

/-! PROOFS. The statements of 10_state.md: the invariant of the machine, what the transient
state cannot influence, and what commands and steps leave unchanged. -/

namespace Sys2Proof.Machine

/-! ### takeRaw leaves all but the raw-data channel -/

@[simp] theorem State.takeRaw_addr (w : CommandWord) (s : State) :
    (s.takeRaw w).addr = s.addr := by rw [takeRaw_frame]
@[simp] theorem State.takeRaw_rst (w : CommandWord) (s : State) :
    (s.takeRaw w).rst = s.rst := by rw [takeRaw_frame]
@[simp] theorem State.takeRaw_inflight (w : CommandWord) (s : State) :
    (s.takeRaw w).inflight = s.inflight := by rw [takeRaw_frame]
@[simp] theorem State.takeRaw_handOff (w : CommandWord) (s : State) :
    (s.takeRaw w).handOff = s.handOff := by rw [takeRaw_frame]
@[simp] theorem State.takeRaw_command (w : CommandWord) (s : State) :
    (s.takeRaw w).command = s.command := by rw [takeRaw_frame]
@[simp] theorem State.takeRaw_sinkTrace (w : CommandWord) (s : State) :
    (s.takeRaw w).sinkTrace = s.sinkTrace := by rw [takeRaw_frame]
@[simp] theorem State.takeRaw_statusLog (w : CommandWord) (s : State) :
    (s.takeRaw w).statusLog = s.statusLog := by rw [takeRaw_frame]

/-! ### What the host's turn changes -/

/-- The host's turn changes inputs only, and no word that waits at the command port; or it
asserts reset while no answer is awaited; or it releases reset. -/
theorem hostTurn_inputs_or_reset {s t : State} (h : s.hostTurn = .settled t) :
    (∃ strap sink word events raw, (∀ w, s.command = some w → word = some w) ∧
      t = { s with
        addrStrap := strap, sinkPresent := sink, command := word, events := events,
        rawIn := raw }) ∨
    (s.handOff = none ∧ t = s.dropEvent.assertReset) ∨
    ((∃ rest, s.events = .driveReset false :: rest) ∧ s.rst = true ∧
      t = s.dropEvent.releaseReset) := by
  rcases hostTurn_settled h with rfl | ⟨w, hc, rfl⟩ | ⟨r, rfl⟩ | ⟨a, rfl⟩ | ⟨p, rfl⟩ |
    hassert | hrelease | ⟨_, rfl⟩
  · exact .inl ⟨_, _, _, _, _, fun _ => id, rfl⟩
  · exact .inl ⟨_, _, some w, _, _, by simp [hc], rfl⟩
  · exact .inl ⟨_, _, _, _, _, fun _ => id, rfl⟩
  · exact .inl ⟨a, _, _, _, _, fun _ => id, rfl⟩
  · exact .inl ⟨_, p, _, _, _, fun _ => id, rfl⟩
  · exact .inr (.inl hassert)
  · exact .inr (.inr hrelease)
  · exact .inl ⟨_, _, _, _, _, fun _ => id, rfl⟩

/-! ### What the decoder says of `sendRaw` -/

/-- A word with another op than that of `sendRaw` decodes to a framed command or to no command
at all, and waits for no operand (R35, R178). -/
theorem decode_of_op_ne_sendRaw {w : CommandWord} (hop : opOf w ≠ sendRawOp)
    (raw : Option (List Byte)) :
    (∃ i, isFramed i ∧ decode w raw = .ok i) ∨ ∃ op, decode w raw = .error (.illegalOp op) := by
  unfold decode decodeParts
  split
  case h_28 h => exact absurd (BitVec.eq_of_toNat_eq h) hop
  case h_29 => exact .inr ⟨_, rfl⟩
  all_goals exact .inl ⟨_, by rintro _ ⟨⟩, rfl⟩

/-- Such a word decodes to framed commands only. -/
theorem isFramed_of_decode {w : CommandWord} {raw : Option (List Byte)} {i : Instr}
    (h : decode w raw = .ok i) (hop : opOf w ≠ sendRawOp) : isFramed i := by
  rcases decode_of_op_ne_sendRaw hop raw with ⟨i', hf, e⟩ | ⟨_, e⟩
  · cases h.symm.trans e
    exact hf
  · cases h.symm.trans e

/-- Only `sendRaw` waits for an operand (R178). -/
theorem opOf_of_decode_rawPending {w : CommandWord} {raw : Option (List Byte)}
    (h : decode w raw = .error .rawPending) : opOf w = sendRawOp := by
  by_contra hop
  rcases decode_of_op_ne_sendRaw hop raw with ⟨_, _, e⟩ | ⟨_, e⟩ <;> cases h.symm.trans e

/-! ### The frames of the framed commands -/

/-- Bytes 3 to 6 of a frame meet R67: a pair of the table, six-bit speeds in the bitfield
convention, Command-1 zero in the opcode convention. -/
def TableFields (c1 c2 d1 d2 : Byte) : Prop :=
  (c1.toNat, c2.toNat) ∈ tablePairs ∧ (c2.toNat % 2 = 0 → d1.toNat ≤ 0x3F ∧ d2.toNat ≤ 0x3F) ∧
    (c2.toNat % 2 = 1 → c1.toNat = 0)

/-- With such bytes the frame is a table frame, for every address. -/
theorem TableFields.isTableFrame {c1 c2 d1 d2 : Byte} (h : TableFields c1 c2 d1 d2) (a : Byte) :
    IsTableFrame a (frameOf a c1.toNat c2.toNat d1.toNat d2.toNat) :=
  ⟨_, _, _, _, rfl, h.1, d1.isLt, d2.isLt, h.2⟩

/-- The outcome is the hand-off of a table frame built in `s`. -/
def SendsTableFrame (s : State) (o : Host.Outcome State Fault Refusal) : Prop :=
  ∃ c1 c2 d1 d2, TableFields c1 c2 d1 d2 ∧ o = .next (s.sendFrame c1 c2 d1 d2)

/-- The clamped speed has six bits (R81). -/
theorem speed6_le (v : Byte) : (speed6 v).toNat ≤ 0x3F := by
  simp only [speed6, satU, Config.speedMax, BitVec.toNat_ofNat]
  omega

/-- The bitfield convention: a flag set whose pair is in the table, and six-bit data bytes. -/
theorem sendsTableFrame_flags (s : State) (f : CommandFlags) {d1 d2 : Byte}
    (hp : ((pack f).1.toNat, (pack f).2.toNat) ∈ tablePairs) (he : (pack f).2.toNat % 2 = 0)
    (h1 : d1.toNat ≤ 0x3F) (h2 : d2.toNat ≤ 0x3F) :
    SendsTableFrame s (.next (s.sendFlags f d1 d2)) :=
  ⟨_, _, _, _, ⟨hp, fun _ => ⟨h1, h2⟩, by omega⟩, rfl⟩

/-- The opcode convention: an odd opcode of the table, and any payload. -/
theorem sendsTableFrame_opcode (s : State) (opcode : Byte) (u : BitVec 16)
    (hp : (0, opcode.toNat) ∈ tablePairs) (ho : opcode.toNat % 2 = 1) :
    SendsTableFrame s (.next (s.sendOpcode opcode u)) :=
  ⟨0x00#8, opcode, _, _, ⟨hp, by omega, fun _ => rfl⟩, rfl⟩

/-- A real form faults on a NaN, or sends a table frame. -/
theorem sendReal_nan_or_tableFrame (s : State) (opcode : Byte) (scale : ExtReal → Nat) (x : Arg)
    (hp : (0, opcode.toNat) ∈ tablePairs) (ho : opcode.toNat % 2 = 1) :
    s.sendReal opcode scale x = s.faulted .illegalOperand (discard s.transient) ∨
      SendsTableFrame s (.next (s.sendReal opcode scale x)) := by
  rcases sendReal_cases opcode scale x s with ⟨_, e⟩ | ⟨v, _, e⟩
  · exact .inl e
  · exact .inr (e ▸ sendsTableFrame_opcode s opcode _ hp ho)

/-- A framed command faults on a NaN, or sends a table frame (R66, R67). -/
theorem exec_framed_cases (i : Instr) (hf : isFramed i) (s : State) :
    exec i s = .next (s.faulted .illegalOperand (discard s.transient)) ∨
      SendsTableFrame s (exec i s) := by
  have zero : (0x00#8).toNat ≤ 0x3F := by decide
  cases i
  case sendRaw r => exact absurd rfl (hf r)
  case stopMotion | zoomIn | zoomOut | focusIn | focusOut | irisIn | irisOut =>
    exact .inr (sendsTableFrame_flags s _ (by decide) (by decide) zero zero)
  case panLeft v | panRight v =>
    exact .inr (sendsTableFrame_flags s _ (by decide) (by decide) (speed6_le v) zero)
  case tiltUp v | tiltDown v =>
    exact .inr (sendsTableFrame_flags s _ (by decide) (by decide) zero (speed6_le v))
  case moveLeftUp v | moveRightUp v | moveLeftDown v | moveRightDown v =>
    exact .inr (sendsTableFrame_flags s _ (by decide) (by decide) (speed6_le v) (speed6_le v))
  case setPanPositionDeg x | setTiltPositionDeg x | setZoomPositionRatio x =>
    exact (sendReal_nan_or_tableFrame s _ _ x (by decide) (by decide)).imp_left (congrArg _)
  all_goals exact .inr (sendsTableFrame_opcode s _ _ (by decide) (by decide))

/-! ### The invariant, operation by operation -/

/-- The status of an answer stands for a hand-off (R180). -/
@[simp] theorem statusHandedOff_answerStatus (a : SinkAnswer) :
    statusHandedOff (answerStatus a) = true := by
  cases a <;> rfl

/-- Every hand-off has its status OK or SinkFail: none is awaited (R118). -/
def State.Settled (s : State) : Prop :=
  s.sinkTrace.length = (s.statusLog.filter statusHandedOff).length

/-- The block holds the command `w` out of reset, and nothing has been handed off for it. -/
structure State.Holds (w : CommandWord) (s : State) : Prop where
  held : s.inflight = some w
  no_handOff : s.handOff = none
  not_reset : s.rst = false
  settled : s.Settled

/-- The invariant speaks of `ADDR`, reset, FB, the command held, the hand-off and the record. -/
theorem State.Inv.congr {s t : State} (h : s.Inv) (haddr : t.addr = s.addr)
    (hrst : t.rst = s.rst) (htr : t.transient = s.transient) (hheld : t.inflight = s.inflight)
    (hho : t.handOff = s.handOff) (htrace : t.sinkTrace = s.sinkTrace)
    (hlog : t.statusLog = s.statusLog) : t.Inv := by
  obtain ⟨h1, h2, h3, h4, h5, h6⟩ := h
  constructor <;> simpa only [haddr, hrst, htr, hheld, hho, htrace, hlog]

/-- An idle block has the invariant if no hand-off is awaited. -/
theorem inv_of_idle {s : State} (hheld : s.inflight = none) (hho : s.handOff = none)
    (hs : s.Settled) : s.Inv where
  handOff_held := by simp [hho]
  collecting := by simp [hheld]
  reset_idle := fun _ => hheld
  handOff_last := by simp [hho]
  handOff_frame := by simp [hho]
  handOff_count := by simpa [hho, State.Settled] using hs

/-- Without a hand-off the invariant's count is the bare one. -/
theorem State.Inv.settled {s : State} (h : s.Inv) (hho : s.handOff = none) : s.Settled := by
  simpa [State.Settled, hho] using h.handOff_count

/-- Under reset no hand-off is awaited (R210). -/
theorem State.Inv.no_handOff_of_reset {s : State} (h : s.Inv) (hr : s.rst = true) :
    s.handOff = none := by
  have := h.handOff_held
  simpa [h.reset_idle hr] using this

/-- A fault hands nothing off, so it keeps the count (R187). -/
theorem faulted_inv {st : Status} {tr : Transient} {s : State} (hst : statusHandedOff st = false)
    (hs : s.Settled) : (s.faulted st tr).Inv :=
  inv_of_idle rfl rfl (by simpa [State.Settled, State.faulted, hst] using hs)

/-- A hand-off that is answered adds one to both sides of the count (R37). -/
theorem delivered_inv {seq : List Byte} {a : SinkAnswer} {rest : List SinkAnswer} {tr : Transient}
    {s : State} (hs : s.Settled) : (s.delivered seq a rest tr).Inv :=
  inv_of_idle rfl rfl (by simpa [State.Settled, State.delivered] using hs)

/-- The answer to an awaited hand-off completes it (R37). -/
theorem State.Inv.answered {s : State} (h : s.Inv) (hho : s.handOff ≠ none) (a : SinkAnswer)
    (rest : List SinkAnswer) : ({ s with answers := rest }.complete (answerStatus a)).Inv :=
  inv_of_idle rfl rfl (by
    have hcount := h.handOff_count
    simpa [State.Settled, Option.isSome_iff_ne_none.2 hho] using hcount)

/-- `emit` for a command held gives the invariant, if the sequence of a framed command is the
frame that FB holds. -/
theorem State.Holds.emit_inv {w : CommandWord} {s : State} (h : s.Holds w) (seq : List Byte)
    (hf : opOf w ≠ sendRawOp → seq = frameBytes s.transient.fb ∧ IsTableFrame s.addr seq) :
    (s.emit seq).Inv := by
  obtain ⟨hheld, hho, hr, hs⟩ := h
  rcases emit_cases seq s with ⟨_, e⟩ | ⟨_, _, e⟩ | ⟨_, a, rest, _, e⟩ <;> rw [e]
  · exact faulted_inv rfl hs
  · exact
      { handOff_held := fun _ => by simp [State.waiting, hheld]
        collecting := fun _ _ hn => by cases hn
        reset_idle := fun hrst => by simp [State.waiting, hr] at hrst
        handOff_last := fun seq' he => by cases he; simp [State.waiting]
        handOff_frame := fun w' seq' hw he hop => by
          cases he
          cases hheld.symm.trans hw
          exact hf hop
        handOff_count := by simpa [State.waiting, State.Settled] using hs }
  · exact delivered_inv hs

/-- What is held does not depend on FB, its index and ACC. -/
theorem State.Holds.setTransient {w : CommandWord} {s : State} (h : s.Holds w) (tr : Transient) :
    State.Holds w { s with transient := tr } :=
  ⟨h.held, h.no_handOff, h.not_reset, h.settled⟩

/-- A framed command that sends a table frame gives the invariant: FB holds the frame. -/
theorem State.Holds.sendFrame_inv {w : CommandWord} {s : State} (h : s.Holds w)
    {c1 c2 d1 d2 : Byte} (hf : TableFields c1 c2 d1 d2) : (s.sendFrame c1 c2 d1 d2).Inv := by
  refine (h.setTransient (s.buildFrame c1 c2 d1 d2).transient).emit_inv _ fun _ => ⟨rfl, ?_⟩
  rw [buildFrame_fb, frameBytes_build]
  exact hf.isTableFrame s.addr

/-- The command that the held word decodes to gives the invariant. -/
theorem State.Holds.exec_inv {w : CommandWord} {raw : Option (List Byte)} {i : Instr}
    {s t : State} (h : s.Holds w) (hd : decode w raw = .ok i) (he : exec i s = .next t) :
    t.Inv := by
  by_cases hop : opOf w = sendRawOp
  · rcases exec_cases i s with ⟨_, e⟩ | ⟨_, _, e⟩ | ⟨_, _, seq, tr, e⟩ <;> cases he.symm.trans e
    · exact faulted_inv rfl h.settled
    · exact (h.setTransient tr).emit_inv seq (absurd hop)
  · rcases exec_framed_cases i (isFramed_of_decode hd hop) s with e | ⟨c1, c2, d1, d2, hf, e⟩ <;>
      cases he.symm.trans e
    · exact faulted_inv rfl h.settled
    · exact h.sendFrame_inv hf

/-- A command issued from a state with the invariant is held out of reset. -/
theorem Issues.holds {s u : State} {w : CommandWord} (h : Issues s w u) (hs : s.Inv) :
    u.Holds w := by
  obtain ⟨hho, ⟨hheld, rfl⟩ | ⟨_, hr, _, rfl⟩⟩ := h
  · have hr : s.rst = false := by
      by_contra hr
      simp [hs.reset_idle (by simpa using hr)] at hheld
    exact ⟨hheld, hho, hr, hs.settled hho⟩
  · exact ⟨rfl, hho, hr, hs.settled hho⟩

/-- Taking the operand off the raw-data channel keeps what is held. -/
theorem State.Holds.takeRaw {w : CommandWord} {s : State} (h : s.Holds w) :
    (s.takeRaw w).Holds w :=
  ⟨by simp [h.held], by simp [h.no_handOff], by simp [h.not_reset],
    by simpa [State.Settled] using h.settled⟩

/-- A `sendRaw` that waits for its operand has the invariant (R178). -/
theorem State.Holds.collecting_inv {w : CommandWord} {s : State} (h : s.Holds w)
    (hop : opOf w = sendRawOp) : s.Inv where
  handOff_held := by simp [h.no_handOff]
  collecting := by simp [h.held, hop]
  reset_idle := by simp [h.not_reset]
  handOff_last := by simp [h.no_handOff]
  handOff_frame := by simp [h.no_handOff]
  handOff_count := by simpa [h.no_handOff, State.Settled] using h.settled

/-- The host's turn keeps the invariant. -/
theorem State.Inv.hostTurn {s t : State} (h : s.Inv) (ht : s.hostTurn = .settled t) : t.Inv := by
  rcases hostTurn_inputs_or_reset ht with ⟨_, _, _, _, _, _, rfl⟩ | ⟨hho, rfl⟩ | ⟨_, hr, rfl⟩
  · exact h.congr rfl rfl rfl rfl rfl rfl rfl
  · exact inv_of_idle rfl rfl (h.settled hho)
  · exact inv_of_idle rfl rfl (h.settled (h.no_handOff_of_reset hr))

/-- Settles O53, by the cases of a step: the host's turn, the sink's answer, and the issue of
a command. -/
theorem everyStepKeepsTheInvariant : Obligations.EveryStepKeepsTheInvariant := by
  intro s t hs hstep
  have hclear : s.clearStatus.Inv := hs.congr rfl rfl rfl rfl rfl rfl rfl
  rcases step_cases s with ⟨t', ht, e⟩ | ⟨r, _, e⟩ | ⟨a, rest, hho, _, e⟩ | ⟨w, u, hu, hissue⟩
  · cases hstep.symm.trans e
    exact hclear.hostTurn ht
  · cases hstep.symm.trans e
  · cases hstep.symm.trans e
    exact hclear.answered hho a rest
  · have hholds : u.Holds w := hu.holds hs
    rcases hissue with ⟨i, hd, e⟩ | ⟨op, _, e⟩ | ⟨hd, _, e⟩
    · exact hholds.takeRaw.exec_inv hd (e.symm.trans hstep)
    · cases hstep.symm.trans e
      exact faulted_inv rfl hholds.settled
    · cases hstep.symm.trans e
      exact hholds.collecting_inv (opOf_of_decode_rawPending hd)

/-! ### The transient state has no influence -/

/-- The state with other contents of FB, its index and ACC. -/
def State.withTransient (tr : Transient) (s : State) : State := { s with transient := tr }

@[simp] theorem State.withTransient_rst (tr : Transient) (s : State) :
    (s.withTransient tr).rst = s.rst := rfl
@[simp] theorem State.withTransient_inflight (tr : Transient) (s : State) :
    (s.withTransient tr).inflight = s.inflight := rfl
@[simp] theorem State.withTransient_handOff (tr : Transient) (s : State) :
    (s.withTransient tr).handOff = s.handOff := rfl
@[simp] theorem State.withTransient_command (tr : Transient) (s : State) :
    (s.withTransient tr).command = s.command := rfl
@[simp] theorem State.withTransient_events (tr : Transient) (s : State) :
    (s.withTransient tr).events = s.events := rfl
@[simp] theorem State.withTransient_rawIn (tr : Transient) (s : State) :
    (s.withTransient tr).rawIn = s.rawIn := rfl
@[simp] theorem State.withTransient_answers (tr : Transient) (s : State) :
    (s.withTransient tr).answers = s.answers := rfl

/-- Two outcomes alike but for FB, its index and ACC. -/
def SameButTransient (o o' : Host.Outcome State Fault Refusal) : Prop :=
  (∃ t tr', o = .next t ∧ o' = .next (t.withTransient tr')) ∨
  (∃ r, o = .refused r ∧ o' = .refused r)

/-- An action with other contents of FB, its index and ACC. -/
def Action.withTransient (tr : Transient) : Action → Action
  | .run i s => .run i (s.withTransient tr)
  | .settled s => .settled (s.withTransient tr)
  | .refuse r => .refuse r

/-- An operand above `RAW_MAX` is refused in every state. -/
theorem exec_illFormed {i : Instr} (hw : i.wellFormed = false) (s : State) :
    exec i s = .refused .rawTooLong := by
  rcases exec_cases i s with ⟨_, e⟩ | ⟨hw', _⟩ | ⟨hw', _⟩
  · exact e
  · simp [hw] at hw'
  · simp [hw] at hw'

/-- A NaN operand faults in every state (R183). -/
theorem exec_nan {i : Instr} (hw : i.wellFormed = true) (hn : operandIsNaN i = true) (s : State) :
    exec i s = .next (s.faulted .illegalOperand (discard s.transient)) := by
  rcases exec_cases i s with ⟨hw', _⟩ | ⟨_, _, e⟩ | ⟨_, hn', _⟩
  · simp [hw] at hw'
  · exact e
  · simp [hn] at hn'

/-- `emit` does not look at FB, its index and ACC. -/
theorem emit_withTransient (seq : List Byte) (s : State) (tr : Transient) :
    ∃ tr', (s.withTransient tr).emit seq = (s.emit seq).withTransient tr' := by
  rcases emit_cases seq s with ⟨hs, e⟩ | ⟨hs, ha, e⟩ | ⟨hs, a, rest, ha, e⟩ <;> rw [e]
  · exact ⟨_, emit_absent seq (s.withTransient tr) hs⟩
  · exact ⟨_, emit_silent seq (s.withTransient tr) hs ha⟩
  · exact ⟨_, emit_answered seq (s.withTransient tr) a rest hs ha⟩

/-- No command looks at FB, its index and ACC: the builder writes them first (R110). -/
theorem exec_withTransient (i : Instr) (s : State) (tr : Transient) :
    SameButTransient (exec i s) (exec i (s.withTransient tr)) := by
  cases hw : i.wellFormed with
  | false => exact .inr ⟨_, exec_illFormed hw s, exec_illFormed hw _⟩
  | true =>
    cases hn : operandIsNaN i with
    | true => exact .inl ⟨_, _, exec_nan hw hn s, exec_nan hw hn _⟩
    | false =>
      obtain ⟨seq, hseq⟩ := exec_emits i s.addr hw hn
      obtain ⟨tr₁, e₁⟩ := hseq s rfl
      obtain ⟨tr₂, e₂⟩ := hseq (s.withTransient tr) rfl
      obtain ⟨tr', e⟩ := emit_withTransient seq (s.withTransient tr₁) tr₂
      exact .inl ⟨_, tr', e₁, e₂.trans (congrArg _ e)⟩

/-- The reset input does not look at FB, its index and ACC. -/
theorem driveReset_withTransient (asserted : Bool) (s : State) (tr : Transient) :
    ∃ tr', (s.withTransient tr).driveReset asserted =
      (s.driveReset asserted).withTransient tr' := by
  cases asserted with
  | true =>
    cases hh : s.handOff with
    | some seq => exact ⟨tr, by simp [State.driveReset, hh, Action.withTransient]⟩
    | none =>
      exact ⟨discard tr, by simp only [State.driveReset, State.withTransient_handOff, hh]; rfl⟩
  | false =>
    cases hr : s.rst with
    | true =>
      exact ⟨clearTransient tr, by simp only [State.driveReset, State.withTransient_rst, hr]; rfl⟩
    | false => exact ⟨tr, by simp only [State.driveReset, State.withTransient_rst, hr]; rfl⟩

/-- The host's turn does not look at FB, its index and ACC. -/
theorem hostTurn_withTransient (s : State) (tr : Transient) :
    ∃ tr', (s.withTransient tr).hostTurn = s.hostTurn.withTransient tr' := by
  rcases he : s.events with _ | ⟨e, rest⟩
  · exact ⟨tr, by simp only [State.hostTurn, State.withTransient_events, he]; rfl⟩
  cases e with
  | present w =>
    cases hc : s.command <;>
      exact ⟨tr, by
        simp only [State.hostTurn, State.withTransient_events, he, State.presentWord,
          State.withTransient_command, hc]
        rfl⟩
  | deliverRaw r => exact ⟨tr, by simp only [State.hostTurn, State.withTransient_events, he]; rfl⟩
  | driveReset asserted => simpa [State.hostTurn, he] using driveReset_withTransient asserted s tr
  | driveAddr a => exact ⟨tr, by simp only [State.hostTurn, State.withTransient_events, he]; rfl⟩
  | driveSink p => exact ⟨tr, by simp only [State.hostTurn, State.withTransient_events, he]; rfl⟩

/-- The issue of a command does not look at FB, its index and ACC, if what it does while an
operand is pending does not. -/
theorem issue_withTransient (w : CommandWord) (s : State) (tr : Transient)
    {pending pending' : Action} (hp : ∃ tr', pending' = pending.withTransient tr') :
    ∃ tr', (s.withTransient tr).issue w pending' = (s.issue w pending).withTransient tr' := by
  rcases hd : decode w s.rawIn.head? with (_ | _) | i
  · exact ⟨discard tr, by simp only [State.issue, State.withTransient_rawIn, hd]; rfl⟩
  · simpa [State.issue, hd] using hp
  · refine ⟨tr, ?_⟩
    have htake : (s.withTransient tr).takeRaw w = (s.takeRaw w).withTransient tr := by
      unfold State.takeRaw
      split <;> rfl
    simp [State.issue, hd, htake, Action.withTransient]

/-- An idle block's turn does not look at FB, its index and ACC. -/
theorem whileIdle_withTransient (s : State) (tr : Transient) :
    ∃ tr', (s.withTransient tr).whileIdle = s.whileIdle.withTransient tr' := by
  cases hc : s.command with
  | none => simpa [State.whileIdle, hc] using hostTurn_withTransient s tr
  | some w =>
    cases hr : s.rst with
    | true => simpa [State.whileIdle, hc, hr] using hostTurn_withTransient s tr
    | false =>
      have haccept : (s.withTransient tr).accept w = (s.accept w).withTransient tr := rfl
      have hissue := issue_withTransient w (s.accept w) tr
        (pending := .settled (s.accept w)) ⟨tr, rfl⟩
      simpa [State.whileIdle, hc, hr, haccept, Action.withTransient] using hissue

/-- Whose turn it is and what is then done does not depend on FB, its index and ACC. -/
theorem turn_withTransient (s : State) (tr : Transient) :
    ∃ tr', (s.withTransient tr).turn = s.turn.withTransient tr' := by
  cases hh : s.handOff with
  | some seq =>
    cases ha : s.answers with
    | nil => simpa [State.turn, hh, ha] using hostTurn_withTransient s tr
    | cons a rest =>
      exact ⟨discard tr, by
        simp only [State.turn, State.awaitAnswer, State.withTransient_handOff,
          State.withTransient_answers, hh, ha]
        rfl⟩
  | none =>
    cases hi : s.inflight with
    | some w =>
      simpa [State.turn, hh, hi] using issue_withTransient w s tr (hostTurn_withTransient s tr)
    | none => simpa [State.turn, hh, hi] using whileIdle_withTransient s tr

/-- Settles O55: the step's action does not depend on the transient contents, and no more does
the command it runs. -/
theorem transientContentsHaveNoEffect : Obligations.TransientContentsHaveNoEffect := by
  intro s tr
  obtain ⟨tr', htr⟩ : ∃ tr', (s.withTransient tr).nextAction = s.nextAction.withTransient tr' :=
    turn_withTransient s.clearStatus tr
  show SameButTransient (step s) (step (s.withTransient tr))
  unfold step
  rw [htr]
  cases s.nextAction with
  | run i u => exact exec_withTransient i u tr'
  | settled t => exact .inl ⟨t, tr', rfl, rfl⟩
  | refuse r => exact .inr ⟨r, rfl, rfl⟩

/-! ### What a command depends on and what it leaves unchanged -/

/-- Settles O29: a command whose operand is no NaN is one `emit`, which faults. -/
theorem withoutSinkEveryCommandFaults : Obligations.WithoutSinkEveryCommandFaults := by
  intro i s hsink hw hn
  obtain ⟨seq, hseq⟩ := exec_emits i s.addr hw hn
  obtain ⟨tr, e⟩ := hseq s rfl
  exact ⟨discard tr, e.trans (congrArg _ (emit_absent seq { s with transient := tr } hsink))⟩

/-- Settles O33, by the four ways a command can end. -/
theorem noCommandWritesTheAddressOrAnInput : Obligations.NoCommandWritesTheAddressOrAnInput := by
  intro i s t h
  obtain ⟨tr, ⟨_, rfl⟩ | ⟨_, rfl⟩ | ⟨_, _, seq, rfl⟩ | ⟨_, a, rest, seq, _, rfl⟩⟩ := exec_next h
  all_goals exact ⟨rfl, rfl, rfl, rfl, rfl, rfl, rfl⟩

/-- What `emit` adds to the record, and the answers it leaves, depend on the sequence, the sink
strap and the sink's answers only (R21). -/
theorem emit_record {s s' : State} (seq : List Byte) (hsink : s.sinkPresent = s'.sinkPresent)
    (hans : s.answers = s'.answers) :
    ∃ seqs sts, (s.emit seq).sinkTrace = s.sinkTrace ++ seqs ∧
      (s'.emit seq).sinkTrace = s'.sinkTrace ++ seqs ∧
      (s.emit seq).statusLog = s.statusLog ++ sts ∧
      (s'.emit seq).statusLog = s'.statusLog ++ sts ∧
      (s.emit seq).answers = (s'.emit seq).answers := by
  rcases emit_cases seq s with ⟨hs, e⟩ | ⟨hs, ha, e⟩ | ⟨hs, a, rest, ha, e⟩ <;> rw [e]
  · rw [emit_absent seq s' (hsink ▸ hs)]
    exact ⟨[], [.sinkAbsent], by simp [State.faulted], by simp [State.faulted], rfl, rfl, hans⟩
  · rw [emit_silent seq s' (hsink ▸ hs) (hans ▸ ha)]
    exact ⟨[seq], [], rfl, rfl, by simp [State.waiting], by simp [State.waiting], hans⟩
  · rw [emit_answered seq s' a rest (hsink ▸ hs) (hans ▸ ha)]
    exact ⟨[seq], [answerStatus a], rfl, rfl, rfl, rfl, rfl⟩

/-- Settles O35: the bytes handed off depend on the command and `ADDR`, and what is recorded of
them on the sink. -/
theorem commandsDependOnNothingEarlier : Obligations.CommandsDependOnNothingEarlier := by
  intro i s s' t haddr hsink hans h
  rcases exec_cases i s with ⟨_, e⟩ | ⟨hw, hn, e⟩ | ⟨hw, hn, _⟩
  · cases h.symm.trans e
  · cases h.symm.trans e
    exact ⟨_, [], [.illegalOperand], exec_nan hw hn s', by simp [State.faulted],
      by simp [State.faulted], rfl, rfl, hans⟩
  · obtain ⟨seq, hseq⟩ := exec_emits i s.addr hw hn
    obtain ⟨tr, e⟩ := hseq s rfl
    obtain ⟨tr', e'⟩ := hseq s' haddr.symm
    cases h.symm.trans e
    obtain ⟨seqs, sts, hrec⟩ := emit_record (s := s.withTransient tr)
      (s' := s'.withTransient tr') seq hsink hans
    exact ⟨_, seqs, sts, e', hrec⟩

/-- `emit` does not read `ADDR`. -/
theorem emit_addr (seq : List Byte) (s : State) (a : Byte) :
    { s with addr := a }.emit seq = { s.emit seq with addr := a } := by
  rcases emit_cases seq s with ⟨hs, e⟩ | ⟨hs, ha, e⟩ | ⟨hs, b, rest, ha, e⟩ <;> rw [e]
  · exact emit_absent seq { s with addr := a } hs
  · exact emit_silent seq { s with addr := a } hs ha
  · exact emit_answered seq { s with addr := a } b rest hs ha

/-- `sendRaw` is `emit` of its operand, up to `RAW_MAX` bytes (R176). -/
theorem exec_sendRaw (r : List Byte) (s : State) :
    exec (.sendRaw r) s =
      if r.length ≤ Config.rawMax then .next (s.emit r) else .refused .rawTooLong := rfl

/-- Settles O36: `sendRaw` is one `emit`. -/
theorem sendRawDoesNotReadTheAddress : Obligations.SendRawDoesNotReadTheAddress := by
  intro s t r a h
  rw [exec_sendRaw] at h ⊢
  split at h
  case isTrue hlen =>
    cases h
    rw [if_pos hlen, emit_addr]
  case isFalse => cases h

/-! ### What a step leaves unchanged -/

/-- Settles O43: the host's turn keeps the word that waits, no command writes the port, and
only an idle block accepts a word. -/
theorem busyBlockAcceptsNoCommand : Obligations.BusyBlockAcceptsNoCommand := by
  intro s t w hbusy hword hstep
  rcases step_cases s with ⟨t', ht, e⟩ | ⟨r, _, e⟩ | ⟨a, rest, _, _, e⟩ |
    ⟨w', u, ⟨hho, ⟨_, rfl⟩ | ⟨hidle, _⟩⟩, hissue⟩
  · cases hstep.symm.trans e
    rcases hostTurn_inputs_or_reset ht with ⟨_, _, _, _, _, hkeep, rfl⟩ | ⟨_, rfl⟩ | ⟨_, _, rfl⟩
    · exact hkeep w hword
    · exact hword
    · exact hword
  · cases hstep.symm.trans e
  · cases hstep.symm.trans e
    exact hword
  · rcases hissue with ⟨i, _, e⟩ | ⟨op, _, e⟩ | ⟨_, _, e⟩
    · obtain ⟨_, _, _, _, hcommand, _⟩ :=
        noCommandWritesTheAddressOrAnInput i _ t (e.symm.trans hstep)
      exact hcommand.trans ((State.takeRaw_command w' _).trans hword)
    · cases hstep.symm.trans e
      exact hword
    · cases hstep.symm.trans e
      exact hword
  · simp [State.ready, hho, hidle] at hbusy

/-- The issue of a command leaves `ADDR` alone. -/
theorem Issues.addr {s u : State} {w : CommandWord} (h : Issues s w u) : u.addr = s.addr := by
  obtain ⟨_, ⟨_, rfl⟩ | ⟨_, _, _, rfl⟩⟩ := h <;> rfl

/-- Settles O51: of all that a step can do only the release of reset writes `ADDR`. -/
theorem addressChangesOnlyAtTheReleaseOfReset :
    Obligations.AddressChangesOnlyAtTheReleaseOfReset := by
  intro s t hstep hne
  rcases step_cases s with ⟨t', ht, e⟩ | ⟨r, _, e⟩ | ⟨a, rest, _, _, e⟩ | ⟨w, u, hu, hissue⟩
  · cases hstep.symm.trans e
    rcases hostTurn_inputs_or_reset ht with ⟨_, _, _, _, _, _, rfl⟩ | ⟨_, rfl⟩ | ⟨hev, hr, rfl⟩
    · exact absurd rfl hne
    · exact absurd rfl hne
    · exact ⟨hr, rfl, rfl, hev⟩
  · cases hstep.symm.trans e
  · cases hstep.symm.trans e
    exact absurd rfl hne
  · refine absurd ?_ hne
    rcases hissue with ⟨i, _, e⟩ | ⟨op, _, e⟩ | ⟨_, _, e⟩
    · obtain ⟨haddr, _⟩ := noCommandWritesTheAddressOrAnInput i _ t (e.symm.trans hstep)
      simpa [hu.addr] using haddr
    · cases hstep.symm.trans e
      exact hu.addr
    · cases hstep.symm.trans e
      exact hu.addr

/-! ### The step of an idle block -/

/-- Settles O38: the idle block accepts the word, and its issue runs the decoded command. -/
theorem stepRunsTheDecodedCommand : Obligations.StepRunsTheDecodedCommand := by
  intro s w i hho hheld hr hword hd
  have hact : s.nextAction = .run i ((s.clearStatus.accept w).takeRaw w) := by
    simp [State.nextAction, State.turn, State.whileIdle, State.issue, hho, hheld, hr, hword, hd]
  have hstate : (s.clearStatus.accept w).takeRaw w =
      { s with
        statusPort := none
        command := none
        inflight := some w
        rawIn := if opOf w = 0x1C#5 then s.rawIn.tail else s.rawIn } := by
    unfold State.takeRaw sendRawOp
    split <;> rfl
  simp only [step, hact, hstate]

/-- An idle block without a word at its port gives the turn to the host. -/
theorem nextAction_of_idle {s : State} (hho : s.handOff = none) (hheld : s.inflight = none)
    (hword : s.command = none) : s.nextAction = s.clearStatus.hostTurn := by
  simp [State.nextAction, State.turn, State.whileIdle, hho, hheld, hword]

/-- Settles O52: the host's turn takes the event and writes the strap. -/
theorem strapChangesChangeNothingElse : Obligations.StrapChangesChangeNothingElse := by
  intro s rest a p hho hheld hword
  have hact := nextAction_of_idle hho hheld hword
  constructor <;> intro he <;>
    simp [step, hact, State.hostTurn, he, State.dropEvent, State.clearStatus]

end Sys2Proof.Machine

/-! PROOFS. The statements of 20_memory.md: the hand-off, its answer and the wait for it, the
completion of every presented command, and the failure indications, which nothing examines. -/

namespace Sys2Proof.Machine

/-! ### Renaming the failure indications -/

@[simp] theorem State.mapError_rst (f : SinkError → SinkError) (s : State) :
    (s.mapError f).rst = s.rst := rfl
@[simp] theorem State.mapError_sinkPresent (f : SinkError → SinkError) (s : State) :
    (s.mapError f).sinkPresent = s.sinkPresent := rfl
@[simp] theorem State.mapError_inflight (f : SinkError → SinkError) (s : State) :
    (s.mapError f).inflight = s.inflight := rfl
@[simp] theorem State.mapError_handOff (f : SinkError → SinkError) (s : State) :
    (s.mapError f).handOff = s.handOff := rfl
@[simp] theorem State.mapError_command (f : SinkError → SinkError) (s : State) :
    (s.mapError f).command = s.command := rfl
@[simp] theorem State.mapError_events (f : SinkError → SinkError) (s : State) :
    (s.mapError f).events = s.events := rfl
@[simp] theorem State.mapError_rawIn (f : SinkError → SinkError) (s : State) :
    (s.mapError f).rawIn = s.rawIn := rfl
@[simp] theorem State.mapError_answers (f : SinkError → SinkError) (s : State) :
    (s.mapError f).answers = s.answers.map (mapAnswer f) := rfl

/-- An action with the failure indications of its state renamed. -/
def Action.mapError (f : SinkError → SinkError) : Action → Action
  | .run i s => .run i (s.mapError f)
  | .settled s => .settled (s.mapError f)
  | .refuse r => .refuse r

/-- An outcome with the failure indications of its state renamed. -/
def mapOutcome (f : SinkError → SinkError) :
    Host.Outcome State Fault Refusal → Host.Outcome State Fault Refusal
  | .next s => .next (s.mapError f)
  | .fault r => .fault r
  | .refused r => .refused r

/-- The status of a renamed answer is the renamed status (R37, R185). -/
theorem answerStatus_mapAnswer (f : SinkError → SinkError) (a : SinkAnswer) :
    answerStatus (mapAnswer f a) = mapStatus f (answerStatus a) := by
  cases a <;> rfl

/-- Completion passes its status through. -/
theorem complete_mapError (f : SinkError → SinkError) (st : Status) (s : State) :
    (s.mapError f).complete (mapStatus f st) = (s.complete st).mapError f := by
  simp [State.complete, State.mapError]

/-- The sink's answer is passed through to the status. -/
theorem awaitAnswer_mapError (f : SinkError → SinkError) (s : State) :
    (s.mapError f).awaitAnswer = s.awaitAnswer.mapError f := by
  rcases awaitAnswer_cases s with ⟨ha, e⟩ | ⟨a, rest, ha, e⟩ <;> rw [e]
  · simp [State.awaitAnswer, ha]
  · rw [← complete_mapError, ← answerStatus_mapAnswer]
    simp only [State.awaitAnswer, State.mapError_answers, ha, List.map_cons]
    rfl

/-- `emit` does not examine an indication: without a sink it faults, else it sends and awaits. -/
theorem emit_mapError (f : SinkError → SinkError) (seq : List Byte) (s : State) :
    (s.mapError f).emit seq = (s.emit seq).mapError f := by
  cases hs : s.sinkPresent with
  | false =>
    simp only [State.emit, State.mapError_sinkPresent, hs]
    exact complete_mapError f .sinkAbsent s
  | true =>
    simp only [State.emit, State.mapError_sinkPresent, hs]
    exact awaitAnswer_mapError f (s.sinkSend seq)

/-- The builder reads `ADDR` only, so a framed command does not examine an indication. -/
theorem sendFrame_mapError (f : SinkError → SinkError) (c1 c2 d1 d2 : Byte) (s : State) :
    (s.mapError f).sendFrame c1 c2 d1 d2 = (s.sendFrame c1 c2 d1 d2).mapError f :=
  emit_mapError f _ (s.buildFrame c1 c2 d1 d2)

/-- A real form faults or sends by its operand alone. -/
theorem sendReal_mapError (f : SinkError → SinkError) (opcode : Byte) (scale : ExtReal → Nat)
    (x : Arg) (s : State) :
    (s.mapError f).sendReal opcode scale x = (s.sendReal opcode scale x).mapError f := by
  cases hx : f32Val x with
  | none =>
    simp only [State.sendReal, hx]
    exact complete_mapError f .illegalOperand s
  | some v =>
    simp only [State.sendReal, hx]
    exact sendFrame_mapError f _ _ _ _ s

/-- No command examines an indication (R36). -/
theorem exec_mapError (f : SinkError → SinkError) (i : Instr) (s : State) :
    exec i (s.mapError f) = mapOutcome f (exec i s) := by
  cases i
  case sendRaw r =>
    rw [exec_sendRaw, exec_sendRaw, emit_mapError]
    split <;> rfl
  case setPanPositionDeg x | setTiltPositionDeg x | setZoomPositionRatio x =>
    exact congrArg _ (sendReal_mapError f _ _ x s)
  all_goals exact congrArg _ (sendFrame_mapError f _ _ _ _ s)

/-- The reset input examines no indication. -/
theorem driveReset_mapError (f : SinkError → SinkError) (asserted : Bool) (s : State) :
    (s.mapError f).driveReset asserted = (s.driveReset asserted).mapError f := by
  simp only [State.driveReset, apply_ite (Action.mapError f)]
  rfl

/-- The host's turn examines no indication. -/
theorem hostTurn_mapError (f : SinkError → SinkError) (s : State) :
    (s.mapError f).hostTurn = s.hostTurn.mapError f := by
  rcases he : s.events with _ | ⟨e, rest⟩
  · simp only [State.hostTurn, State.mapError_events, he]
    rfl
  cases e with
  | present w =>
    simp only [State.hostTurn, State.mapError_events, he, State.presentWord,
      State.mapError_command]
    cases s.command <;> rfl
  | driveReset asserted =>
    simpa only [State.hostTurn, State.mapError_events, he] using driveReset_mapError f asserted s
  | deliverRaw _ | driveAddr _ | driveSink _ =>
    simp only [State.hostTurn, State.mapError_events, he]
    rfl

/-- The raw-data channel carries no indication. -/
theorem takeRaw_mapError (f : SinkError → SinkError) (w : CommandWord) (s : State) :
    (s.mapError f).takeRaw w = (s.takeRaw w).mapError f := by
  unfold State.takeRaw
  split <;> rfl

/-- The issue of a command examines no indication. -/
theorem issue_mapError (f : SinkError → SinkError) (w : CommandWord) (pending : Action)
    (s : State) :
    (s.mapError f).issue w (pending.mapError f) = (s.issue w pending).mapError f := by
  rcases issue_cases w pending s with ⟨i, hd, e⟩ | ⟨op, hd, e⟩ | ⟨hd, e⟩ <;> rw [e] <;>
    simp only [State.issue, State.mapError_rawIn, hd]
  · rw [takeRaw_mapError]
    rfl
  · exact congrArg _ (complete_mapError f .illegalOp s)

/-- An idle block examines no indication. -/
theorem whileIdle_mapError (f : SinkError → SinkError) (s : State) :
    (s.mapError f).whileIdle = s.whileIdle.mapError f := by
  cases hword : s.command with
  | none => simpa only [State.whileIdle, State.mapError_command, hword] using hostTurn_mapError f s
  | some w =>
    cases hr : s.rst with
    | true => simpa [State.whileIdle, hword, hr] using hostTurn_mapError f s
    | false =>
      have hissue := issue_mapError f w (.settled (s.accept w)) (s.accept w)
      have haccept : (s.mapError f).accept w = (s.accept w).mapError f := rfl
      simpa [State.whileIdle, hword, hr, haccept, Action.mapError] using hissue

/-- Whose turn it is does not depend on an indication, and no turn examines one. -/
theorem turn_mapError (f : SinkError → SinkError) (s : State) :
    (s.mapError f).turn = s.turn.mapError f := by
  cases hho : s.handOff with
  | some seq =>
    simp only [State.turn, State.mapError_handOff, hho, State.mapError_answers, List.isEmpty_map]
    split
    · exact hostTurn_mapError f s
    · exact congrArg _ (awaitAnswer_mapError f s)
  | none =>
    cases hheld : s.inflight with
    | some w =>
      simp only [State.turn, State.mapError_handOff, State.mapError_inflight, hho, hheld,
        hostTurn_mapError]
      exact issue_mapError f w _ s
    | none =>
      simp only [State.turn, State.mapError_handOff, State.mapError_inflight, hho, hheld]
      exact whileIdle_mapError f s

/-- The step of the renamed state is the renamed step. -/
theorem step_mapError (f : SinkError → SinkError) (s : State) :
    step (s.mapError f) = mapOutcome f (step s) := by
  have hact : (s.mapError f).nextAction = s.nextAction.mapError f :=
    turn_mapError f s.clearStatus
  unfold step
  rw [hact]
  cases s.nextAction with
  | run i u => exact exec_mapError f i u
  | settled t => rfl
  | refuse r => rfl

/-- Settles O56: renaming commutes with the step as a whole, so with each of its outcomes. -/
theorem failureIndicationsAreNeverExamined :
    Obligations.FailureIndicationsAreNeverExamined := by
  intro f s
  rw [step_mapError]
  constructor <;> intro _ h <;> rw [h] <;> rfl

/-! ### The hand-off of a command -/

/-- Settles O30: the command is one `emit` of bytes that `ADDR` fixes, the same with an answer
ready as without. -/
theorem unansweredHandOffLeavesTheCommandWaiting :
    Obligations.UnansweredHandOffLeavesTheCommandWaiting := by
  intro i s hsink hans hw hn
  obtain ⟨seq, hseq⟩ := exec_emits i s.addr hw hn
  obtain ⟨tr, e⟩ := hseq s rfl
  refine ⟨seq, tr, e.trans (congrArg _ (emit_silent seq (s.withTransient tr) hsink hans)), ?_⟩
  intro a rest
  obtain ⟨tr', e'⟩ := hseq { s with answers := a :: rest } rfl
  exact ⟨_, e'.trans (congrArg _ (emit_answered seq _ a rest hsink rfl))⟩

/-- Settles O34, by the ways a command can end: the two faults hand nothing off, and a hand-off
is answered or waits. -/
theorem oneHandOffOrAFaultWithNone : Obligations.OneHandOffOrAFaultWithNone := by
  intro i s t h
  obtain ⟨tr, ⟨_, rfl⟩ | ⟨_, rfl⟩ | ⟨_, ha, seq, rfl⟩ | ⟨_, a, rest, seq, ha, rfl⟩⟩ := exec_next h
  · exact .inr (.inr ⟨_, rfl, rfl, rfl, rfl, rfl, rfl, rfl⟩)
  · exact .inr (.inr ⟨_, rfl, rfl, rfl, rfl, rfl, rfl, rfl⟩)
  · exact .inr (.inl ⟨seq, ha, ha, rfl, rfl, rfl, rfl, rfl⟩)
  · exact .inl ⟨seq, a, rest, ha, rfl, rfl, rfl, rfl, statusHandedOff_answerStatus a, rfl, rfl⟩

/-! ### Runs -/

/-- A run goes on from the state that its first step gives. -/
theorem run_succ_of_step {s t : State} (h : step s = .next t) (k : Nat) :
    Host.Core.run Sys2Proof.core (k + 1) s = Host.Core.run Sys2Proof.core k t := by
  have hcore : Host.Core.step Sys2Proof.core s = .next t := h
  simp only [Host.Core.run, hcore]

/-- A state that the step does not change is not changed by any number of steps. -/
theorem run_of_step_self {s : State} (h : step s = .next s) (k : Nat) :
    Host.Core.run Sys2Proof.core k s = .next s := by
  induction k with
  | zero => rfl
  | succ k ih => rw [run_succ_of_step h, ih]

/-! ### The awaited answer -/

/-- Without an answer the turn of a block that awaits one is the host's (R38). -/
theorem nextAction_of_silent {s : State} (hho : s.handOff ≠ none) (hans : s.answers = []) :
    s.nextAction = s.clearStatus.hostTurn := by
  obtain ⟨seq, hseq⟩ := Option.ne_none_iff_exists'.1 hho
  simp [State.nextAction, State.turn, hseq, hans]

/-- Without a host event the host's turn changes nothing. -/
theorem hostTurn_of_no_events {s : State} (hev : s.events = []) : s.hostTurn = .settled s := by
  simp [State.hostTurn, hev]

/-- Settles O42: the turn is the host's, who does nothing, so each step gives the state back. -/
theorem silentSinkHangsTheBlock : Obligations.SilentSinkHangsTheBlock := by
  intro s seq k hho hans hev hport
  have hclear : s.clearStatus = s := by rw [State.clearStatus, ← hport]
  have hact : s.nextAction = .settled s := by
    rw [nextAction_of_silent (by simp [hho]) hans, hclear, hostTurn_of_no_events hev]
  exact run_of_step_self (by simp only [step, hact]) k

/-- An awaited hand-off is completed by the answer that is ready (R37). -/
theorem step_of_answer {s : State} {a : SinkAnswer} {rest : List SinkAnswer}
    (hho : s.handOff ≠ none) (hans : s.answers = a :: rest) :
    step s = .next ({ s.clearStatus with answers := rest }.complete (answerStatus a)) := by
  obtain ⟨seq, hseq⟩ := Option.ne_none_iff_exists'.1 hho
  simp [step, State.nextAction, State.turn, State.awaitAnswer, hseq, hans]

/-- Settles O41: the completion with the answer's status. -/
theorem answerCompletesTheAwaitedHandOff : Obligations.AnswerCompletesTheAwaitedHandOff := by
  intro s seq a rest hho hans
  refine ⟨discard s.transient, (step_of_answer (by simp [hho]) hans).trans ?_⟩
  cases a <;> rfl

/-! ### Every presented command completes -/

/-- `t` is `s` with one command completed: the block is ready, one status was added, at most
one answer was taken, and the address, reset, and the host's inputs are as before. -/
structure CompletedFrom (s t : State) : Prop where
  ready : t.ready = true
  addr : t.addr = s.addr
  rst : t.rst = s.rst
  command : t.command = s.command
  events : t.events = s.events
  rawIn : t.rawIn = s.rawIn
  answers : s.answers.length ≤ t.answers.length + 1
  statusLog : t.statusLog.length = s.statusLog.length + 1

theorem faulted_completedFrom (st : Status) (tr : Transient) (s : State) :
    CompletedFrom s (s.faulted st tr) :=
  ⟨rfl, rfl, rfl, rfl, rfl, rfl, by simp [State.faulted], by simp [State.faulted]⟩

theorem delivered_completedFrom (seq : List Byte) {a : SinkAnswer} {rest : List SinkAnswer}
    (tr : Transient) {s : State} (hans : s.answers = a :: rest) :
    CompletedFrom s (s.delivered seq a rest tr) :=
  ⟨rfl, rfl, rfl, rfl, rfl, rfl, by simp [State.delivered, hans], by simp [State.delivered]⟩

/-- With an answer ready, a well-formed command completes, whatever its status (R180). -/
theorem exec_completedFrom {i : Instr} {s : State} (hw : i.wellFormed = true)
    (hans : s.answers ≠ []) : ∃ t, exec i s = .next t ∧ CompletedFrom s t := by
  obtain ⟨t, h⟩ : ∃ t, exec i s = .next t := by
    rcases exec_cases i s with ⟨hw', _⟩ | ⟨_, _, e⟩ | ⟨_, _, _, _, e⟩
    · simp [hw] at hw'
    · exact ⟨_, e⟩
    · exact ⟨_, e⟩
  refine ⟨t, h, ?_⟩
  obtain ⟨tr, ⟨_, rfl⟩ | ⟨_, rfl⟩ | ⟨_, ha, _⟩ | ⟨_, a, rest, seq, ha, rfl⟩⟩ := exec_next h
  · exact faulted_completedFrom _ tr s
  · exact faulted_completedFrom _ tr s
  · exact absurd ha hans
  · exact delivered_completedFrom seq tr ha

/-- A framed command is well formed (R178 bounds the operand of `sendRaw` only). -/
theorem wellFormed_of_isFramed {i : Instr} (hf : isFramed i) : i.wellFormed = true := by
  cases i
  case sendRaw r => exact absurd rfl (hf r)
  all_goals rfl

/-! ### What the words read from the raw-data channel -/

@[simp] theorem State.takeRaw_events (w : CommandWord) (s : State) :
    (s.takeRaw w).events = s.events := by rw [takeRaw_frame]
@[simp] theorem State.takeRaw_answers (w : CommandWord) (s : State) :
    (s.takeRaw w).answers = s.answers := by rw [takeRaw_frame]

/-- With its operand on the channel, a `sendRaw` word decodes to the command (R178). -/
theorem decode_sendRaw {w : CommandWord} (hop : opOf w = sendRawOp) (r : List Byte) :
    decode w (some r) = .ok (.sendRaw r) := by
  simp [decode, decodeParts, hop, sendRawOp]

theorem takeRaw_of_op_eq_sendRaw {w : CommandWord} (hop : opOf w = sendRawOp) (s : State) :
    s.takeRaw w = { s with rawIn := s.rawIn.tail } := if_pos hop

theorem takeRaw_of_op_ne_sendRaw {w : CommandWord} (hop : opOf w ≠ sendRawOp) (s : State) :
    s.takeRaw w = s := if_neg hop

/-- With an answer ready, and for a `sendRaw` an operand of at most `RAW_MAX` bytes on the
channel, the issue of a word completes it: by the command it runs, or at once by IllegalOp. -/
theorem issue_completes {w : CommandWord} {s : State} {pending : Action}
    (hans : s.answers ≠ [])
    (hraw : opOf w = sendRawOp → ∃ r rest, s.rawIn = r :: rest ∧ r.length ≤ Config.rawMax) :
    (∃ i t, s.issue w pending = .run i (s.takeRaw w) ∧ exec i (s.takeRaw w) = .next t ∧
      CompletedFrom (s.takeRaw w) t) ∨
    (∃ t, s.issue w pending = .settled t ∧ CompletedFrom (s.takeRaw w) t) := by
  have run {i : Instr} (hw : i.wellFormed = true) (hd : decode w s.rawIn.head? = .ok i) :
      ∃ i t, s.issue w pending = .run i (s.takeRaw w) ∧ exec i (s.takeRaw w) = .next t ∧
        CompletedFrom (s.takeRaw w) t := by
    obtain ⟨t, he, hc⟩ := exec_completedFrom hw (s := s.takeRaw w) (by simpa using hans)
    exact ⟨i, t, by simp only [State.issue, hd], he, hc⟩
  by_cases hop : opOf w = sendRawOp
  · obtain ⟨r, rest, hr, hlen⟩ := hraw hop
    refine .inl (run (i := .sendRaw r) (by simpa [Instr.wellFormed] using hlen) ?_)
    rw [hr]
    exact decode_sendRaw hop r
  · rcases decode_of_op_ne_sendRaw hop s.rawIn.head? with ⟨i, hf, hd⟩ | ⟨op, hd⟩
    · exact .inl (run (wellFormed_of_isFramed hf) hd)
    · refine .inr ⟨s.raise .illegalOp, by simp only [State.issue, hd], ?_⟩
      rw [takeRaw_of_op_ne_sendRaw hop]
      exact faulted_completedFrom .illegalOp _ s

/-- An idle block out of reset with a word at its port completes that word in one step. -/
theorem step_completes {w : CommandWord} {s : State} (hidle : s.ready = true)
    (hr : s.rst = false) (hword : s.command = some w) (hans : s.answers ≠ [])
    (hraw : opOf w = sendRawOp → ∃ r rest, s.rawIn = r :: rest ∧ r.length ≤ Config.rawMax) :
    ∃ t, step s = .next t ∧ CompletedFrom ((s.clearStatus.accept w).takeRaw w) t := by
  obtain ⟨hheld, hho⟩ : s.inflight = none ∧ s.handOff = none := by
    simpa [State.ready] using hidle
  have hact : s.nextAction =
      (s.clearStatus.accept w).issue w (.settled (s.clearStatus.accept w)) := by
    simp [State.nextAction, State.turn, State.whileIdle, hho, hheld, hr, hword]
  unfold step
  rw [hact]
  rcases issue_completes (s := s.clearStatus.accept w) hans hraw with
    ⟨i, t, e, he, hc⟩ | ⟨t, e, hc⟩ <;> rw [e]
  · exact ⟨t, he, hc⟩
  · exact ⟨t, rfl, hc⟩

/-- An idle block out of reset, whose host presents the words `ws` and nothing else, with an
answer for each, and a short operand for each `sendRaw`. -/
structure State.Presenting (ws : List CommandWord) (s : State) : Prop where
  idle : s.ready = true
  not_reset : s.rst = false
  no_word : s.command = none
  presents : s.events = ws.map .present
  answered : ws.length ≤ s.answers.length
  operands : (ws.filter (fun w => opOf w == sendRawOp)).length ≤ s.rawIn.length
  short : ∀ r ∈ s.rawIn, r.length ≤ Config.rawMax

/-- The first step puts the word at the command port. -/
theorem State.Presenting.step_presents {w : CommandWord} {ws : List CommandWord} {s : State}
    (h : s.Presenting (w :: ws)) :
    step s = .next { s.clearStatus.dropEvent with command := some w } := by
  obtain ⟨hheld, hho⟩ : s.inflight = none ∧ s.handOff = none := by
    simpa [State.ready] using h.idle
  have hev : s.clearStatus.events = .present w :: ws.map .present := h.presents
  have hword : s.clearStatus.command = none := h.no_word
  simp only [step, nextAction_of_idle hho hheld h.no_word, State.hostTurn, hev,
    State.presentWord, hword]

/-- A `sendRaw` presented has an operand on the channel, and it is short. -/
theorem State.Presenting.operand {w : CommandWord} {ws : List CommandWord} {s : State}
    (h : s.Presenting (w :: ws)) (hop : opOf w = sendRawOp) :
    ∃ r rest, s.rawIn = r :: rest ∧ r.length ≤ Config.rawMax := by
  have hlen := h.operands
  cases hraw : s.rawIn with
  | nil => simp [hop, hraw] at hlen
  | cons r rest => exact ⟨r, rest, rfl, h.short r (by simp [hraw])⟩

/-- After the first word has read the channel, enough operands are left for the other words. -/
theorem State.Presenting.rest_operands {w : CommandWord} {ws : List CommandWord} {s u : State}
    (h : s.Presenting (w :: ws)) (hu : u.rawIn = s.rawIn) :
    (ws.filter (fun w => opOf w == sendRawOp)).length ≤ (u.takeRaw w).rawIn.length ∧
      ∀ r ∈ (u.takeRaw w).rawIn, r.length ≤ Config.rawMax := by
  have hlen := h.operands
  by_cases hop : opOf w = sendRawOp
  · rw [takeRaw_of_op_eq_sendRaw hop]
    refine ⟨?_, fun r hr => h.short r (hu ▸ List.mem_of_mem_tail hr)⟩
    simp only [List.filter_cons, hop, beq_self_eq_true, if_true, List.length_cons] at hlen
    simp only [List.length_tail, hu]
    omega
  · rw [takeRaw_of_op_ne_sendRaw hop, hu]
    exact ⟨by simpa [List.filter_cons, hop] using hlen, h.short⟩

/-- Two steps complete the first word and lead to an idle block with the other words to come. -/
theorem State.Presenting.two_steps {w : CommandWord} {ws : List CommandWord} {s : State}
    (h : s.Presenting (w :: ws)) :
    ∃ s' t, step s = .next s' ∧ step s' = .next t ∧ t.Presenting ws ∧ t.addr = s.addr ∧
      t.statusLog.length = s.statusLog.length + 1 := by
  have hanswered : ws.length + 1 ≤ s.answers.length := h.answered
  have hans : s.answers ≠ [] := List.ne_nil_of_length_pos (by omega)
  obtain ⟨t, hstep, hc⟩ := step_completes (w := w)
    (s := { s.clearStatus.dropEvent with command := some w })
    h.idle h.not_reset rfl hans h.operand
  obtain ⟨hoperands, hshort⟩ := h.rest_operands
    (u := { s.clearStatus.dropEvent with command := none, inflight := some w }) rfl
  refine ⟨_, t, h.step_presents, hstep, ?_, hc.addr.trans (by simp), hc.statusLog.trans (by simp)⟩
  exact
    { idle := hc.ready
      not_reset := hc.rst.trans (by simp [h.not_reset])
      no_word := hc.command.trans (by simp)
      presents := hc.events.trans (by simp [h.presents])
      answered := by
        have hleft : s.answers.length ≤ t.answers.length + 1 := by simpa using hc.answers
        omega
      operands := hc.rawIn ▸ hoperands
      short := hc.rawIn ▸ hshort }

/-- Two steps for each word lead to an idle block with no word to come. -/
theorem State.Presenting.run_completes {ws : List CommandWord} {s : State}
    (h : s.Presenting ws) :
    ∃ t : State, Host.Core.run Sys2Proof.core (2 * ws.length) s = .next t ∧
      t.Presenting [] ∧ t.addr = s.addr ∧
      t.statusLog.length = s.statusLog.length + ws.length := by
  induction ws generalizing s with
  | nil => exact ⟨s, rfl, h, rfl, rfl⟩
  | cons w ws ih =>
    obtain ⟨s', t, hs, hs', ht, haddr, hlog⟩ := h.two_steps
    obtain ⟨u, hrun, hu, haddr', hlog'⟩ := ih ht
    refine ⟨u, ?_, hu, haddr'.trans haddr, by simp only [List.length_cons]; omega⟩
    rw [List.length_cons, Nat.mul_succ, run_succ_of_step hs, run_succ_of_step hs', hrun]

/-- Settles O57: the premises are those of a block with the words to come. -/
theorem everyPresentedCommandCompletes : Obligations.EveryPresentedCommandCompletes := by
  intro ws s hidle hr hword hev hans hraw hshort
  have h : s.Presenting ws := ⟨hidle, hr, hword, hev, hans, hraw, hshort⟩
  obtain ⟨t, hrun, ht, haddr, hlog⟩ := h.run_completes
  exact ⟨t, hrun, ht.presents, ht.no_word, ht.idle, haddr, hlog⟩

end Sys2Proof.Machine

/-! PROOFS. The statements of 30_encoding.md: the decoder and the encoder, each the other's
inverse but for ignored bits, the real forms as unit forms, and the frames handed off. -/

namespace Sys2Proof.Machine

/-! ### The decoder and the encoder -/

/-- The raw-data channel holds the operand of `sendRaw`; no other command reads it (R59). -/
def OperandOn (raw : Option (List Byte)) (i : Instr) : Prop := ∀ r, i = .sendRaw r → raw = some r

/-- The op and the argument of a command decode to it (R59, R60). -/
theorem decodeParts_opcode_argument {raw : Option (List Byte)} (i : Instr) (h : OperandOn raw i) :
    decodeParts i.opcode i.argument raw = .ok i := by
  cases i
  case sendRaw r =>
    rw [h r rfl]
    rfl
  case panLeft v | panRight v | tiltUp v | tiltDown v | moveLeftUp v | moveRightUp v |
      moveLeftDown v | moveRightDown v =>
    simp [decodeParts, Instr.opcode, Instr.argument, speedOf_setWidth]
  all_goals rfl

/-- An unassigned op decodes to its rejection (R62). -/
theorem decodeParts_unassigned {op : OpCode} (h : op ∈ unassignedOps) (a : Arg)
    (raw : Option (List Byte)) : decodeParts op a raw = .error (.illegalOp op) := by
  simp only [unassignedOps, List.mem_cons, List.not_mem_nil, or_false] at h
  rcases h with rfl | rfl | rfl | rfl <;> rfl

/-- The parts `op` and `a` decode to the command `i` of that op, whose argument is the bits
of `a` that its format reads. -/
structure DecodesTo (op : OpCode) (a : Arg) (raw : Option (List Byte)) (i : Instr) : Prop where
  decoded : decodeParts op a raw = .ok i
  opcode : i.opcode = op
  argument : i.argument = a &&& operandBits op
  operandOn : OperandOn raw i

/-- Format S reads the low byte, which is the speed. -/
theorem speed_argument {op : OpCode} (h : operandBits op = 0x000000FF#32) (a : Arg) :
    (speedOf a).setWidth 32 = a &&& operandBits op := by
  rw [h, speedOf_setWidth_eq_and]

/-- Formats U and F read the whole argument. -/
theorem word_argument {op : OpCode} (h : operandBits op = 0xFFFFFFFF#32) (a : Arg) :
    a = a &&& operandBits op := by
  rw [h]
  exact BitVec.and_allOnes.symm

/-- Formats N and R read nothing of it. -/
theorem no_argument {op : OpCode} (h : operandBits op = 0#32) (a : Arg) :
    0#32 = a &&& operandBits op := by
  rw [h, BitVec.and_zero]

/-- What the decoder can do: read a command, wait for the operand of `sendRaw`, or reject an
unassigned op (R59, R60, R62, R178). -/
theorem decodeParts_cases (op : OpCode) (a : Arg) (raw : Option (List Byte)) :
    (∃ i, DecodesTo op a raw i) ∨
    (op = sendRawOp ∧ raw = none ∧ decodeParts op a raw = .error .rawPending) ∨
    (op ∈ unassignedOps ∧ decodeParts op a raw = .error (.illegalOp op)) := by
  match op with
  | 0x01#5 | 0x02#5 | 0x03#5 | 0x04#5 | 0x05#5 | 0x06#5 | 0x07#5 | 0x08#5 =>
    exact .inl ⟨_, rfl, rfl, speed_argument rfl a, by rintro _ ⟨⟩⟩
  | 0x10#5 | 0x11#5 | 0x12#5 | 0x13#5 | 0x14#5 | 0x15#5 | 0x19#5 | 0x1A#5 | 0x1B#5 =>
    exact .inl ⟨_, rfl, rfl, word_argument rfl a, by rintro _ ⟨⟩⟩
  | 0x00#5 | 0x09#5 | 0x0A#5 | 0x0B#5 | 0x0C#5 | 0x0D#5 | 0x0E#5 | 0x16#5 | 0x17#5 | 0x18#5 =>
    exact .inl ⟨_, rfl, rfl, no_argument rfl a, by rintro _ ⟨⟩⟩
  | 0x0F#5 | 0x1D#5 | 0x1E#5 | 0x1F#5 =>
    exact .inr (.inr ⟨by decide, rfl⟩)
  | 0x1C#5 =>
    cases raw with
    | none => exact .inr (.inl ⟨rfl, rfl, rfl⟩)
    | some r => exact .inl ⟨_, rfl, rfl, no_argument rfl a, by rintro _ ⟨⟩; rfl⟩
  | .ofFin ⟨n + 32, h⟩ => omega

/-- Only the bits that the format reads matter (R59, U14). -/
theorem decodeParts_operandBits (op : OpCode) (a : Arg) (raw : Option (List Byte)) :
    decodeParts op (a &&& operandBits op) raw = decodeParts op a raw := by
  rcases decodeParts_cases op a raw with ⟨i, hd, hop, ha, hraw⟩ | ⟨rfl, rfl, _⟩ | ⟨hu, hd⟩
  · rw [hd, ← ha, ← hop, decodeParts_opcode_argument i hraw]
  · rfl
  · rw [hd, decodeParts_unassigned hu]

/-- What an `ok` of the decoder says of the command. -/
theorem decodesTo_of_decode {w : CommandWord} {raw : Option (List Byte)} {i : Instr}
    (h : decode w raw = .ok i) : DecodesTo (opOf w) (argOf w) raw i := by
  rcases decodeParts_cases (opOf w) (argOf w) raw with ⟨j, hj⟩ | ⟨_, _, e⟩ | ⟨_, e⟩
  · cases h.symm.trans hj.decoded
    exact hj
  · cases h.symm.trans e
  · cases h.symm.trans e

/-- Settles O1: the word's parts are the op and the argument of the command. -/
theorem encodeThenDecodeGivesTheCommand : Obligations.EncodeThenDecodeGivesTheCommand := by
  intro i raw h
  rw [decode, encode, opOf_packWord, argOf_packWord]
  exact decodeParts_opcode_argument i h

/-- Settles O2: the command decoded has the op of the word and the bits of its argument that
the format reads. -/
theorem decodedWordIsTheEncodingOfItsCommand :
    Obligations.DecodedWordIsTheEncodingOfItsCommand := by
  intro w raw i h
  have hi := decodesTo_of_decode h
  exact ⟨by rw [encode, hi.opcode, hi.argument], hi.operandOn⟩

/-- Settles O3: both words decode as their op with the bits that the format reads. -/
theorem decodeIgnoresTheIgnoredBits : Obligations.DecodeIgnoresTheIgnoredBits := by
  intro w w' raw hop harg
  calc decode w raw
      = decodeParts (opOf w) (argOf w &&& operandBits (opOf w)) raw :=
        (decodeParts_operandBits _ _ _).symm
    _ = decodeParts (opOf w') (argOf w' &&& operandBits (opOf w')) raw := by rw [harg, hop]
    _ = decode w' raw := decodeParts_operandBits _ _ _

/-- Settles O4: of all that the decoder can do only the rejection gives `illegalOp`. -/
theorem unassignedOpsAreExactlyTheIllegalOnes :
    Obligations.UnassignedOpsAreExactlyTheIllegalOnes := by
  intro w raw
  refine ⟨fun h => ?_, fun hu => decodeParts_unassigned hu _ raw⟩
  rcases decodeParts_cases (opOf w) (argOf w) raw with ⟨i, hi⟩ | ⟨_, _, e⟩ | ⟨hu, _⟩
  · cases h.symm.trans hi.decoded
  · cases h.symm.trans e
  · exact hu

/-- Settles O5: each word has the op and the operand of its command, the third with ignored
bits set. -/
theorem testVectorWordsDecode : Obligations.TestVectorWordsDecode :=
  ⟨rfl, rfl, rfl, rfl, rfl, rfl, rfl, rfl⟩

/-! ### An unassigned op at the command port -/

/-- An unassigned op raises IllegalOp when it is issued (R182). -/
theorem issue_unassigned {w : CommandWord} (hu : opOf w ∈ unassignedOps) (pending : Action)
    (s : State) : s.issue w pending = .settled (s.raise .illegalOp) := by
  simp only [State.issue, decode, decodeParts_unassigned hu]

/-- Settles O40: the idle block accepts the word, and its issue raises IllegalOp. -/
theorem unassignedOpCompletesWithIllegalOp : Obligations.UnassignedOpCompletesWithIllegalOp := by
  intro s w hho hheld hr hword hu
  refine ⟨fun raw i h => ?_, discard s.transient, ?_, rfl⟩
  · cases h.symm.trans (decodeParts_unassigned hu (argOf w) raw)
  · have hact : s.nextAction = .settled ((s.clearStatus.accept w).raise .illegalOp) := by
      simp [State.nextAction, State.turn, State.whileIdle, hho, hheld, hr, hword,
        issue_unassigned hu]
    rw [step, hact]
    rfl

/-! ### The real forms -/

/-- A clamped value is at most the upper bound. -/
theorem clampR_le (x : ExtReal) {lo hi : ℚ} (h : lo ≤ hi) : clampR x lo hi ≤ hi := by
  cases x with
  | negInf => exact h
  | posInf => exact le_rfl
  | fin q =>
    simp only [clampR]
    split_ifs with hlo hhi
    · exact h
    · exact le_rfl
    · exact not_lt.mp hhi

/-- Rounding stays below an integer bound. -/
theorem rnd_le {x : ℚ} {n : ℕ} (h : x ≤ n) : rnd x ≤ n := by
  have hfloor : ⌊x + 1 / 2⌋ < (n : ℤ) + 1 := Int.floor_lt.mpr (by push_cast; linarith)
  unfold rnd
  omega

/-- The zoom position of any ratio fits in 16 bits (R88). -/
theorem zoomUnits_le (x : ExtReal) : zoomUnits x ≤ 65535 := by
  have hclamp : clampR x 0 1 ≤ 1 := clampR_le x zero_le_one
  exact rnd_le (by push_cast; linarith)

/-- The pan position of any angle is in range (R86). -/
theorem panUnits_le (x : ExtReal) : panUnits x ≤ 35999 := Nat.min_le_right _ _

/-- The tilt position of any angle is in range (R87). -/
theorem tiltUnits_le (x : ExtReal) : tiltUnits x ≤ 35999 := Nat.min_le_right _ _

/-- A real form with an operand that is no NaN sends the scaled position `n`, which the
argument of the unit form carries whole (R94). -/
theorem sendReal_eq_unit {w : Arg} {x : ExtReal} (hw : f32Val w = some x) (opcode : Byte)
    (units : ExtReal → Nat) (sat : Nat → Nat) (s : State) (h : units x ≤ 65535) :
    s.sendReal opcode (fun v => sat (units v)) w =
      s.sendOpcode opcode (payload (sat (BitVec.ofNat 32 (units x)).toNat)) := by
  rw [BitVec.toNat_ofNat, Nat.mod_eq_of_lt (by omega)]
  simp only [State.sendReal, hw]

/-- Settles O27: every scaled operand fits in the argument of the unit form. -/
theorem realFormsAreUnitFormsOfTheScaledOperand :
    Obligations.RealFormsAreUnitFormsOfTheScaledOperand := by
  intro s w x hw
  have hpan := (panUnits_le x).trans (by decide : 35999 ≤ 65535)
  have htilt := (tiltUnits_le x).trans (by decide : 35999 ≤ 65535)
  exact ⟨congrArg _ (sendReal_eq_unit hw 0x4B#8 panUnits posPT s hpan),
    congrArg _ (sendReal_eq_unit hw 0x4D#8 tiltUnits posPT s htilt),
    congrArg _ (sendReal_eq_unit hw 0x4F#8 zoomUnits posZ s (zoomUnits_le x))⟩

/-! ### The frames handed off -/

/-- The frame sent stands at the end of the record, if there is a sink. -/
theorem sendFrame_sinkTrace (c1 c2 d1 d2 : Byte) (s : State) :
    (s.sendFrame c1 c2 d1 d2).sinkTrace = s.sinkTrace ∨
      (s.sendFrame c1 c2 d1 d2).sinkTrace =
        s.sinkTrace ++ [frameOf s.addr c1.toNat c2.toNat d1.toNat d2.toNat] := by
  rw [sendFrame_eq]
  obtain ⟨tr, ⟨_, e⟩ | ⟨_, _, e⟩ | ⟨_, _, _, _, e⟩⟩ := emit_transient_cases
    (frameOf s.addr c1.toNat c2.toNat d1.toNat d2.toNat) (s.buildFrame c1 c2 d1 d2).transient s <;>
    rw [e]
  · exact .inl rfl
  · exact .inr rfl
  · exact .inr rfl

/-- Settles O32: a framed command faults on a NaN or sends a table frame. -/
theorem everyFramedHandOffIsATableFrame : Obligations.EveryFramedHandOffIsATableFrame := by
  intro i s t hf h
  rcases exec_framed_cases i hf s with e | ⟨c1, c2, d1, d2, hfields, e⟩
  · cases h.symm.trans e
    exact .inl rfl
  · cases h.symm.trans e
    exact (sendFrame_sinkTrace c1 c2 d1 d2 s).imp_right
      fun hseq => ⟨_, hseq, hfields.isTableFrame s.addr⟩

end Sys2Proof.Machine

/-! PROOFS. The statements of 40_value_scaler.md: the saturated integers, the rounding, the
three real conversions, the reading of a binary32 word, and the integer forms of section 5. -/

namespace Sys2Proof.Machine

/-! ### Integer operands -/

/-- Saturation keeps a value in range and else gives the bound (R92). -/
theorem satU_eq_ite (v hi : Nat) : satU v hi = if v ≤ hi then v else hi := min_def v hi

/-- A bound that fits in `k` bits makes the saturated value fit. -/
theorem satU_toNat (v : Nat) {hi k : Nat} (h : hi < 2 ^ k) :
    (BitVec.ofNat k (satU v hi)).toNat = satU v hi := by
  have hle : satU v hi ≤ hi := Nat.min_le_right v hi
  rw [BitVec.toNat_ofNat, Nat.mod_eq_of_lt (hle.trans_lt h)]

/-- Settles O9: each function is `satU` at its bound, which fits in the field. -/
theorem integerOperandsSaturate : Obligations.IntegerOperandsSaturate :=
  ⟨fun s => (satU_toNat s.toNat (by decide : Config.speedMax < 2 ^ 8)).trans (satU_eq_ite _ _),
    fun n => (satU_toNat n.toNat (by decide : Config.presetMax < 2 ^ 8)).trans (satU_eq_ite _ _),
    fun n => (satU_toNat n.toNat (by decide : Config.panTiltMax < 2 ^ 16)).trans (satU_eq_ite _ _),
    fun n => (satU_toNat n.toNat (by decide : Config.zoomMax < 2 ^ 16)).trans (satU_eq_ite _ _)⟩

/-- Settles O17: the units are in the range of the second clamp. -/
theorem secondClampChangesNothing : Obligations.SecondClampChangesNothing := fun x =>
  ⟨Nat.min_eq_left (panUnits_le x), Nat.min_eq_left (tiltUnits_le x),
    Nat.min_eq_left (zoomUnits_le x)⟩

/-! ### Rounding -/

/-- Rounding is the floor in the natural numbers. -/
theorem rnd_eq_floor (x : ℚ) : rnd x = ⌊x + 1 / 2⌋₊ := Int.floor_toNat _

/-- Settles O10: the floor of `x + 1/2`, its bounds moved by `1/2`. -/
theorem roundingIsToNearestHalfUp : Obligations.RoundingIsToNearestHalfUp := by
  intro x n hx
  rw [rnd_eq_floor, Nat.floor_eq_iff (by linarith), sub_le_iff_le_add, ← lt_sub_iff_add_lt,
    add_sub_assoc]
  norm_num

theorem rnd_mono {x y : ℚ} (h : x ≤ y) : rnd x ≤ rnd y := by
  rw [rnd_eq_floor, rnd_eq_floor]
  exact Nat.floor_mono (by linarith)

/-- Rounding stays above an integer bound. -/
theorem le_rnd {x : ℚ} {n : ℕ} (h : (n : ℚ) ≤ x) : n ≤ rnd x := by
  rw [rnd_eq_floor]
  exact Nat.le_floor (by linarith)

@[simp] theorem rnd_natCast (n : ℕ) : rnd n = n :=
  le_antisymm (rnd_le le_rfl) (le_rnd le_rfl)

@[simp] theorem rnd_zero : rnd 0 = 0 := rnd_natCast 0

/-- Rounding a quotient by a power of two adds half the divisor and shifts (section 5). -/
theorem rnd_div_two_pow (a : ℕ) {k : ℕ} (hk : 0 < k) :
    rnd ((a : ℚ) / 2 ^ k) = (a + 2 ^ (k - 1)) / 2 ^ k := by
  have hhalf : (2 : ℚ) ^ k = 2 * 2 ^ (k - 1) := (mul_pow_sub_one hk.ne' 2).symm
  have hsum : (a : ℚ) / 2 ^ k + 1 / 2 = ((a + 2 ^ (k - 1) : ℕ) : ℚ) / (2 ^ k : ℕ) := by
    push_cast
    rw [hhalf]
    field_simp
  rw [rnd_eq_floor, hsum, Nat.floor_div_eq_div]

/-! ### Clamping -/

/-- Clamping a rational, in the order's own terms. -/
theorem clampR_fin (q : ℚ) {lo hi : ℚ} (h : lo ≤ hi) :
    clampR (.fin q) lo hi = max lo (min q hi) := by
  simp only [clampR]
  split_ifs with hlo hhi
  · rw [max_eq_left (min_le_of_left_le hlo.le)]
  · rw [min_eq_right hhi.le, max_eq_right h]
  · rw [min_eq_left (not_lt.mp hhi), max_eq_right (not_lt.mp hlo)]

/-- A clamped value is at least the lower bound. -/
theorem le_clampR (x : ExtReal) {lo hi : ℚ} (h : lo ≤ hi) : lo ≤ clampR x lo hi := by
  cases x with
  | negInf => exact le_rfl
  | posInf => exact h
  | fin q => exact (clampR_fin q h).symm ▸ le_max_left _ _

theorem clampR_mono {p q lo hi : ℚ} (h : lo ≤ hi) (hpq : p ≤ q) :
    clampR (.fin p) lo hi ≤ clampR (.fin q) lo hi := by
  rw [clampR_fin p h, clampR_fin q h]
  exact max_le_max_left lo (min_le_min_right hi hpq)

theorem clampR_of_le {q lo hi : ℚ} (h : lo ≤ hi) (hq : q ≤ lo) : clampR (.fin q) lo hi = lo := by
  rw [clampR_fin q h, max_eq_left (min_le_of_left_le hq)]

theorem clampR_of_ge {q lo hi : ℚ} (h : lo ≤ hi) (hq : hi ≤ q) : clampR (.fin q) lo hi = hi := by
  rw [clampR_fin q h, min_eq_right hq, max_eq_right h]

theorem clampR_of_mem {q lo hi : ℚ} (hlo : lo ≤ q) (hhi : q ≤ hi) : clampR (.fin q) lo hi = q := by
  rw [clampR_fin q (hlo.trans hhi), min_eq_left hhi, max_eq_right hlo]

/-! ### Pan and zoom: a scale that starts at 0 -/

/-- The operand clamped to `0` to `hi`, times `c`, rounded, and at most `top`: the form that pan
and zoom units share. -/
def unitsFromZero (hi c : ℚ) (top : ℕ) (x : ExtReal) : ℕ := min (rnd (clampR x 0 hi * c)) top

theorem panUnits_eq_unitsFromZero (x : ExtReal) : panUnits x = unitsFromZero 360 100 35999 x := rfl

/-- The bound of zoom units never acts (R88). -/
theorem zoomUnits_eq_unitsFromZero (x : ExtReal) :
    zoomUnits x = unitsFromZero 1 65535 65535 x := (Nat.min_eq_left (zoomUnits_le x)).symm

section
variable {hi c : ℚ} {top : ℕ}

theorem unitsFromZero_mono (hhi : 0 ≤ hi) (hc : 0 ≤ c) {p q : ℚ} (hpq : p ≤ q) :
    unitsFromZero hi c top (.fin p) ≤ unitsFromZero hi c top (.fin q) :=
  min_le_min_right top (rnd_mono (mul_le_mul_of_nonneg_right (clampR_mono hhi hpq) hc))

/-- An operand that is clamped to 0 gives 0. -/
theorem unitsFromZero_of_clampR_eq_zero {x : ExtReal} (h : clampR x 0 hi = 0) :
    unitsFromZero hi c top x = 0 := by
  rw [unitsFromZero, h, zero_mul, rnd_zero, Nat.zero_min]

/-- An operand that is clamped to the upper bound gives `top`. -/
theorem unitsFromZero_of_clampR_eq_hi (htop : (top : ℚ) ≤ hi * c) {x : ExtReal}
    (h : clampR x 0 hi = hi) : unitsFromZero hi c top x = top := by
  rw [unitsFromZero, h, Nat.min_eq_right (le_rnd htop)]

/-- Below `top` the units are the rounded product, above the domain as in it: there neither
side of the equivalence holds. -/
theorem unitsFromZero_eq_iff (hhi : 0 ≤ hi) (hc : 0 ≤ c) (htop : (top : ℚ) ≤ hi * c) {q : ℚ}
    {n : ℕ} (hq : 0 ≤ q) (hn : n < top) :
    unitsFromZero hi c top (.fin q) = n ↔ (n : ℚ) - 1 / 2 ≤ q * c ∧ q * c < n + 1 / 2 := by
  rcases le_total q hi with hle | hge
  · have hmin : unitsFromZero hi c top (.fin q) = n ↔ rnd (q * c) = n := by
      rw [unitsFromZero, clampR_of_mem hq hle]
      omega
    rw [hmin, roundingIsToNearestHalfUp (q * c) n (mul_nonneg hq hc)]
  · have hval : unitsFromZero hi c top (.fin q) = top :=
      unitsFromZero_of_clampR_eq_hi htop (clampR_of_ge hhi hge)
    have hprod : hi * c ≤ q * c := mul_le_mul_of_nonneg_right hge hc
    have hnext : (n : ℚ) + 1 ≤ top := mod_cast hn
    constructor
    · omega
    · intro ⟨_, hlt⟩
      linarith

/-- What pan and zoom units have in common (R86, R88). -/
theorem unitsFromZero_clampsAndRounds {m : ℕ} (hhi : 0 ≤ hi) (hc : 0 ≤ c)
    (htop : ((m + 1 : ℕ) : ℚ) ≤ hi * c) :
    (∀ x, unitsFromZero hi c (m + 1) x ≤ m + 1) ∧
    (∀ p q : ℚ, p ≤ q →
      unitsFromZero hi c (m + 1) (.fin p) ≤ unitsFromZero hi c (m + 1) (.fin q)) ∧
    (∀ q : ℚ, q ≤ 0 → unitsFromZero hi c (m + 1) (.fin q) = 0) ∧
    (∀ q : ℚ, hi ≤ q → unitsFromZero hi c (m + 1) (.fin q) = m + 1) ∧
    unitsFromZero hi c (m + 1) .negInf = 0 ∧ unitsFromZero hi c (m + 1) .posInf = m + 1 ∧
    (∀ (q : ℚ) (n : ℕ), 0 ≤ q → n ≤ m →
      (unitsFromZero hi c (m + 1) (.fin q) = n ↔ (n : ℚ) - 1 / 2 ≤ q * c ∧ q * c < n + 1 / 2)) :=
  ⟨fun _ => Nat.min_le_right _ _,
    fun _ _ hpq => unitsFromZero_mono hhi hc hpq,
    fun _ hq => unitsFromZero_of_clampR_eq_zero (clampR_of_le hhi hq),
    fun _ hq => unitsFromZero_of_clampR_eq_hi htop (clampR_of_ge hhi hq),
    unitsFromZero_of_clampR_eq_zero rfl,
    unitsFromZero_of_clampR_eq_hi htop rfl,
    fun _ _ hq hn => unitsFromZero_eq_iff hhi hc htop hq (Nat.lt_succ_of_le hn)⟩

end

/-- Settles O12: pan units are 360 degrees in hundredths, and the last is `35998 + 1`. -/
theorem panUnitsClampAndRound : Obligations.PanUnitsClampAndRound := by
  unfold Obligations.PanUnitsClampAndRound
  simp only [panUnits_eq_unitsFromZero]
  exact unitsFromZero_clampsAndRounds (m := 35998) (by norm_num) (by norm_num) (by norm_num)

/-- Settles O14: zoom units are the ratio 1 in 65535 parts, and the last is `65534 + 1`. -/
theorem zoomUnitsClampAndRound : Obligations.ZoomUnitsClampAndRound := by
  unfold Obligations.ZoomUnitsClampAndRound
  simp only [zoomUnits_eq_unitsFromZero]
  exact unitsFromZero_clampsAndRounds (m := 65534) (by norm_num) (by norm_num) (by norm_num)

/-! ### Tilt: two scales that meet at zero -/

theorem tiltScaled_of_neg {a : ℚ} (ha : a < 0) : tiltScaled a = -a * 100 := if_pos ha

theorem tiltScaled_of_pos {a : ℚ} (ha : 0 < a) : tiltScaled a = 36000 - a * 100 :=
  (if_neg ha.le.not_gt).trans (if_pos ha)

@[simp] theorem tiltScaled_zero : tiltScaled 0 = 0 := rfl

/-- The tilt domain has its ends in order. -/
theorem tilt_lo_le_hi : (-90 : ℚ) ≤ 90 := by norm_num

/-- The scaled angle leaves out what lies between the two ends of the domain. -/
theorem tiltScaled_le_or_ge {a : ℚ} (hlo : -90 ≤ a) (hhi : a ≤ 90) :
    tiltScaled a ≤ (9000 : ℕ) ∨ ((27000 : ℕ) : ℚ) ≤ tiltScaled a := by
  rcases lt_trichotomy a 0 with ha | rfl | ha
  · rw [tiltScaled_of_neg ha]
    exact .inl (by push_cast; linarith)
  · exact .inl (by simp)
  · rw [tiltScaled_of_pos ha]
    exact .inr (by push_cast; linarith)

/-- Tilt units of an angle whose clamped value is known. -/
theorem tiltUnits_of_clampR {x : ExtReal} {a : ℚ} (h : clampR x (-90) 90 = a) :
    tiltUnits x = min (rnd (tiltScaled a)) 35999 := by
  rw [← h]
  rfl

/-- Below the horizon the upper bound never acts (R87). -/
theorem tiltUnits_of_clampR_neg {x : ExtReal} {a : ℚ} (h : clampR x (-90) 90 = a) (ha : a < 0) :
    tiltUnits x = rnd (-a * 100) := by
  have hlo : -90 ≤ a := h ▸ le_clampR x tilt_lo_le_hi
  have hle : rnd (-a * 100) ≤ 9000 := rnd_le (by push_cast; linarith)
  rw [tiltUnits_of_clampR h, tiltScaled_of_neg ha]
  omega

/-- Above the horizon (R87). -/
theorem tiltUnits_of_clampR_pos {x : ExtReal} {a : ℚ} (h : clampR x (-90) 90 = a) (ha : 0 < a) :
    tiltUnits x = min (rnd (36000 - a * 100)) 35999 := by
  rw [tiltUnits_of_clampR h, tiltScaled_of_pos ha]

/-- The lower end of the domain gives 9000. -/
theorem tiltUnits_of_clampR_lo {x : ExtReal} (h : clampR x (-90) 90 = -90) :
    tiltUnits x = 9000 := by
  have hval : -(-90 : ℚ) * 100 = (9000 : ℕ) := by norm_num
  rw [tiltUnits_of_clampR_neg h (by norm_num), hval, rnd_natCast]

/-- The upper end of the domain gives 27000. -/
theorem tiltUnits_of_clampR_hi {x : ExtReal} (h : clampR x (-90) 90 = 90) :
    tiltUnits x = 27000 := by
  have hval : (36000 : ℚ) - 90 * 100 = (27000 : ℕ) := by norm_num
  rw [tiltUnits_of_clampR_pos h (by norm_num), hval, rnd_natCast]
  rfl

/-- The results 9001 to 26999 never occur (R87). -/
theorem tiltUnits_le_or_ge (x : ExtReal) : tiltUnits x ≤ 9000 ∨ 27000 ≤ tiltUnits x := by
  rw [tiltUnits_of_clampR rfl]
  rcases tiltScaled_le_or_ge (le_clampR x tilt_lo_le_hi) (clampR_le x tilt_lo_le_hi) with hle | hge
  · exact .inl ((Nat.min_le_left _ _).trans (rnd_le hle))
  · exact .inr (Nat.le_min.mpr ⟨le_rnd hge, by norm_num⟩)

/-- Below zero the units grow as the angle falls. -/
theorem tiltUnits_anti_of_neg {p q : ℚ} (hpq : p ≤ q) (hq : q < 0) :
    tiltUnits (.fin q) ≤ tiltUnits (.fin p) := by
  have hneg : clampR (.fin q) (-90) 90 < 0 := by
    rw [clampR_fin q tilt_lo_le_hi]
    exact max_lt (by norm_num) (min_lt_of_left_lt hq)
  have hmono := clampR_mono tilt_lo_le_hi hpq
  rw [tiltUnits_of_clampR_neg rfl hneg, tiltUnits_of_clampR_neg rfl (hmono.trans_lt hneg)]
  exact rnd_mono (by linarith)

/-- Above zero the units fall as the angle grows. -/
theorem tiltUnits_anti_of_pos {p q : ℚ} (hp : 0 < p) (hpq : p ≤ q) :
    tiltUnits (.fin q) ≤ tiltUnits (.fin p) := by
  have hpos : 0 < clampR (.fin p) (-90) 90 := by
    rw [clampR_fin p tilt_lo_le_hi]
    exact lt_max_of_lt_right (lt_min hp (by norm_num))
  have hmono := clampR_mono tilt_lo_le_hi hpq
  rw [tiltUnits_of_clampR_pos rfl hpos, tiltUnits_of_clampR_pos rfl (hpos.trans_le hmono)]
  exact min_le_min_right _ (rnd_mono (by linarith))

/-- Settles O13, clause by clause from the value of the clamped angle. -/
theorem tiltUnitsMapAsymmetrically : Obligations.TiltUnitsMapAsymmetrically := by
  refine ⟨fun x => (tiltUnits_le_or_ge x).imp_right fun hge => ⟨hge, tiltUnits_le x⟩, ?zero,
    fun q hlo hneg => ?neg, fun q hpos hhi => ?pos,
    fun q hq => tiltUnits_of_clampR_lo (clampR_of_le tilt_lo_le_hi hq),
    fun q hq => tiltUnits_of_clampR_hi (clampR_of_ge tilt_lo_le_hi hq),
    tiltUnits_of_clampR_lo rfl, tiltUnits_of_clampR_hi rfl,
    fun _ _ => tiltUnits_anti_of_neg, fun _ _ => tiltUnits_anti_of_pos⟩
  case zero =>
    rw [tiltUnits_of_clampR (clampR_of_mem (by norm_num) (by norm_num)), tiltScaled_zero, rnd_zero,
      Nat.zero_min]
  case neg =>
    exact tiltUnits_of_clampR_neg (clampR_of_mem hlo (by linarith)) hneg
  case pos =>
    exact tiltUnits_of_clampR_pos (clampR_of_mem (by linarith) hhi) hpos

/-! ### The fields of a binary32 word -/

theorem f32Exp_eq (w : Arg) : f32Exp w = w.toNat / 2 ^ 23 % 2 ^ 8 := by
  simp [f32Exp, BitVec.extractLsb'_toNat, Nat.shiftRight_eq_div_pow]

theorem f32Frac_eq (w : Arg) : f32Frac w = w.toNat % 2 ^ 23 := by
  simp [f32Frac, BitVec.extractLsb'_toNat]

theorem f32Sign_eq (w : Arg) : f32Sign w = decide (2 ^ 31 ≤ w.toNat) :=
  (BitVec.msb_eq_getLsbD_last w).symm.trans (BitVec.msb_eq_decide w)

/-- The lower 31 bits are the exponent above the fraction. -/
theorem f32_lower_bits (w : Arg) : w.toNat % 2 ^ 31 = 2 ^ 23 * f32Exp w + f32Frac w := by
  rw [f32Exp_eq, f32Frac_eq]
  omega

theorem f32Exp_lt (w : Arg) : f32Exp w < 2 ^ 8 := by
  rw [f32Exp_eq]
  exact Nat.mod_lt _ (by decide)

theorem f32Frac_lt (w : Arg) : f32Frac w < 2 ^ 23 := by
  rw [f32Frac_eq]
  exact Nat.mod_lt _ (by decide)

/-! ### The classes of a binary32 word -/

/-- The lower 31 bits alone tell a NaN, an infinity and a finite word apart (R83). -/
theorem f32Class_cases (w : Arg) :
    (0x7F800000 < w.toNat % 2 ^ 31 ∧ f32Class w = .nan) ∨
    (w.toNat % 2 ^ 31 = 0x7F800000 ∧ f32Class w = if f32Sign w then .negInf else .posInf) ∨
    (w.toNat % 2 ^ 31 < 0x7F800000 ∧ f32Class w = .finite) := by
  have hexp := f32Exp_lt w
  have hfrac := f32Frac_lt w
  rw [f32_lower_bits]
  by_cases he : f32Exp w = 255
  · by_cases hf : f32Frac w = 0
    · exact .inr (.inl ⟨by omega, by simp [f32Class, he, hf]⟩)
    · exact .inl ⟨by omega, by simp [f32Class, he, hf]⟩
  · exact .inr (.inr ⟨by omega, by simp [f32Class, he]⟩)

/-- What a word reads as, by its bits (R83). -/
theorem f32Val_cases (w : Arg) :
    (0x7F800000 < w.toNat % 2 ^ 31 ∧ f32Val w = none) ∨
    (w.toNat = 0x7F800000 ∧ f32Val w = some .posInf) ∨
    (w.toNat = 0xFF800000 ∧ f32Val w = some .negInf) ∨
    (w.toNat % 2 ^ 31 < 0x7F800000 ∧
      f32Val w = some (.fin (if 2 ^ 31 ≤ w.toNat then -f32Magnitude w else f32Magnitude w))) := by
  have hw := w.isLt
  rcases f32Class_cases w with ⟨h, hc⟩ | ⟨h, hc⟩ | ⟨h, hc⟩
  · exact .inl ⟨h, by simp only [f32Val, hc]⟩
  · rw [f32Sign_eq] at hc
    by_cases hs : 2 ^ 31 ≤ w.toNat
    · rw [if_pos (decide_eq_true hs)] at hc
      exact .inr (.inr (.inl ⟨by omega, by simp only [f32Val, hc]⟩))
    · rw [if_neg (by simpa using hs)] at hc
      exact .inr (.inl ⟨by omega, by simp only [f32Val, hc]⟩)
  · exact .inr (.inr (.inr ⟨h, by simp [f32Val, hc, f32Sign_eq]⟩))

theorem f32Val_eq_none_iff (w : Arg) : f32Val w = none ↔ 0x7F800000 < w.toNat % 2 ^ 31 := by
  rcases f32Val_cases w with ⟨h, e⟩ | ⟨h, e⟩ | ⟨h, e⟩ | ⟨h, e⟩ <;> simp [e] <;> omega

theorem f32Val_eq_posInf_iff (w : Arg) : f32Val w = some .posInf ↔ w.toNat = 0x7F800000 := by
  rcases f32Val_cases w with ⟨h, e⟩ | ⟨h, e⟩ | ⟨h, e⟩ | ⟨h, e⟩ <;> simp [e] <;> omega

theorem f32Val_eq_negInf_iff (w : Arg) : f32Val w = some .negInf ↔ w.toNat = 0xFF800000 := by
  rcases f32Val_cases w with ⟨h, e⟩ | ⟨h, e⟩ | ⟨h, e⟩ | ⟨h, e⟩ <;> simp [e] <;> omega

/-- A word below the infinities in its lower 31 bits is finite, with the sign of bit 31. -/
theorem f32Val_of_finite {w : Arg} (h : w.toNat % 2 ^ 31 < 0x7F800000) :
    f32Val w =
      some (.fin (if 2 ^ 31 ≤ w.toNat then -f32Magnitude w else f32Magnitude w)) := by
  rcases f32Val_cases w with ⟨h', _⟩ | ⟨h', _⟩ | ⟨h', _⟩ | ⟨_, e⟩
  · omega
  · omega
  · omega
  · exact e

/-! ### The magnitude as a quotient of integers -/

/-- A subnormal word has the scale of exponent 1, and its mantissa no leading bit (R83). -/
theorem f32Magnitude_eq (w : Arg) :
    f32Magnitude w = ((f32Mantissa w * 2 ^ max (f32Exp w) 1 : ℕ) : ℚ) / 2 ^ 150 := by
  unfold f32Magnitude f32Mantissa
  split_ifs with he
  · rw [he, Rat.mkRat_eq_div]
    push_cast
    norm_num
    ring
  · rw [max_eq_left (Nat.one_le_iff_ne_zero.mpr he), Rat.mkRat_eq_div]
    push_cast
    rfl

/-- The difference of `f32Up` and `f32Down` is the exponent `q` of R83. -/
theorem f32Up_add (w : Arg) : f32Up w + 150 = max (f32Exp w) 1 + f32Down w := by
  unfold f32Up f32Down
  split_ifs <;> omega

theorem f32Up_eq_zero {w : Arg} (h : f32Down w ≠ 0) : f32Up w = 0 := by
  unfold f32Down at h
  unfold f32Up
  split_ifs at h <;> omega

/-- The magnitude is `m * 2^q`, with `q` either `f32Up` or the negative of `f32Down`. -/
theorem f32Magnitude_eq_div (w : Arg) :
    f32Magnitude w = ((f32Mantissa w * 2 ^ f32Up w : ℕ) : ℚ) / 2 ^ f32Down w := by
  have hpow : (2 : ℚ) ^ f32Up w * 2 ^ 150 = 2 ^ max (f32Exp w) 1 * 2 ^ f32Down w := by
    rw [← pow_add, ← pow_add, f32Up_add]
  rw [f32Magnitude_eq, div_eq_div_iff (by positivity) (by positivity)]
  push_cast
  rw [mul_assoc, mul_assoc, hpow]

/-- With a negative exponent, the magnitude is the mantissa shifted down. -/
theorem f32Magnitude_of_down {w : Arg} (h : f32Down w ≠ 0) :
    f32Magnitude w = (f32Mantissa w : ℚ) / 2 ^ f32Down w := by
  rw [f32Magnitude_eq_div, f32Up_eq_zero h, pow_zero, mul_one]

/-- With an exponent that is not negative, it is the mantissa shifted up. -/
theorem f32Magnitude_of_up {w : Arg} (h : f32Down w = 0) :
    f32Magnitude w = ((f32Mantissa w * 2 ^ f32Up w : ℕ) : ℚ) := by
  rw [f32Magnitude_eq_div, h, pow_zero, div_one]

/-! ### The order of the magnitudes -/

theorem f32Mantissa_lt (w : Arg) : f32Mantissa w < 2 ^ 24 := by
  have := f32Frac_lt w
  unfold f32Mantissa
  split_ifs <;> omega

/-- A mantissa with an exponent above 0 has its leading bit. -/
theorem le_f32Mantissa {w : Arg} (h : f32Exp w ≠ 0) : 2 ^ 23 ≤ f32Mantissa w := by
  rw [f32Mantissa, if_neg h]
  exact Nat.le_add_right _ _

/-- The lower 31 bits are the mantissa and the scale, the leading bit counted in the scale. -/
theorem f32_lower_bits_mantissa (w : Arg) :
    w.toNat % 2 ^ 31 + 2 ^ 23 = 2 ^ 23 * max (f32Exp w) 1 + f32Mantissa w := by
  rw [f32_lower_bits]
  unfold f32Mantissa
  split_ifs <;> omega

/-- The scaled mantissa grows with the word: at the same scale the mantissa grows, and one
scale up the leading bit outweighs any mantissa below. -/
theorem scaledMantissa_lt {v w : Arg} (h : v.toNat % 2 ^ 31 < w.toNat % 2 ^ 31) :
    f32Mantissa v * 2 ^ max (f32Exp v) 1 < f32Mantissa w * 2 ^ max (f32Exp w) 1 := by
  have hv := f32_lower_bits_mantissa v
  have hw := f32_lower_bits_mantissa w
  have hmv := f32Mantissa_lt v
  have hmw := f32Mantissa_lt w
  rcases lt_trichotomy (max (f32Exp v) 1) (max (f32Exp w) 1) with hlt | heq | hgt
  · calc f32Mantissa v * 2 ^ max (f32Exp v) 1
      _ < 2 ^ 24 * 2 ^ max (f32Exp v) 1 := Nat.mul_lt_mul_of_pos_right hmv (by positivity)
      _ = 2 ^ 23 * 2 ^ (max (f32Exp v) 1 + 1) := by ring
      _ ≤ f32Mantissa w * 2 ^ max (f32Exp w) 1 :=
        Nat.mul_le_mul (le_f32Mantissa (by omega)) (Nat.pow_le_pow_right (by decide) hlt)
  · rw [heq]
    exact Nat.mul_lt_mul_of_pos_right (by omega) (by positivity)
  · have := le_f32Mantissa (w := v) (by omega)
    omega

theorem f32Magnitude_lt {v w : Arg} (h : v.toNat % 2 ^ 31 < w.toNat % 2 ^ 31) :
    f32Magnitude v < f32Magnitude w := by
  rw [f32Magnitude_eq, f32Magnitude_eq]
  exact div_lt_div_of_pos_right (mod_cast scaledMantissa_lt h) (by positivity)

/-- Settles O11: the classes and the order are read off the lower 31 bits. -/
theorem binary32WordsAreReadInOrder : Obligations.Binary32WordsAreReadInOrder := by
  refine ⟨f32Val_eq_none_iff, fun w => ?posInf, fun w => ?negInf, fun w hw => ?pos,
    fun w hlo hhi => ?neg, fun v w hvw hw => f32Magnitude_lt (by omega), ?zero⟩
  case posInf => rw [f32Val_eq_posInf_iff, ← BitVec.toNat_inj]; rfl
  case negInf => rw [f32Val_eq_negInf_iff, ← BitVec.toNat_inj]; rfl
  case pos => rw [f32Val_of_finite (by omega), if_neg (by omega)]
  case neg => rw [f32Val_of_finite (by omega), if_pos hlo]
  case zero =>
    have hm : f32Mantissa 0#32 = 0 := rfl
    rw [f32Magnitude_eq, hm, Nat.zero_mul, Nat.cast_zero, zero_div]

/-! ### The integer forms of section 5 -/

/-- Settles O15: the product is an integer, or one over a power of two. -/
theorem roundedProductIsIntegerArithmetic : Obligations.RoundedProductIsIntegerArithmetic := by
  intro w c _
  unfold roundedProduct
  split_ifs with hdown
  · have hprod : f32Magnitude w * c = ((f32Mantissa w * c * 2 ^ f32Up w : ℕ) : ℚ) := by
      rw [f32Magnitude_of_up hdown]
      push_cast
      ring
    rw [hprod, rnd_natCast]
  · have hprod : f32Magnitude w * c = ((f32Mantissa w * c : ℕ) : ℚ) / 2 ^ f32Down w := by
      rw [f32Magnitude_of_down hdown, div_mul_eq_mul_div]
      push_cast
      rfl
    rw [hprod, rnd_div_two_pow _ (Nat.pos_of_ne_zero hdown)]

/-- A magnitude of at most 90 has a negative exponent: without one the leading bit alone is
2^23. -/
theorem f32Down_ne_zero_of_le {w : Arg} (h : f32Magnitude w ≤ 90) : f32Down w ≠ 0 := by
  intro hdown
  have hexp : f32Exp w ≠ 0 := by
    intro he
    simp [f32Down, he] at hdown
  have hle : f32Mantissa w * 2 ^ f32Up w ≤ 90 := by
    rw [f32Magnitude_of_up hdown] at h
    exact_mod_cast h
  have hlead := le_f32Mantissa hexp
  have hshift := Nat.le_mul_of_pos_right (f32Mantissa w) (Nat.two_pow_pos (f32Up w))
  omega

/-- Settles O16: the difference is an integer over a power of two. -/
theorem positiveTiltIsIntegerArithmetic : Obligations.PositiveTiltIsIntegerArithmetic := by
  intro w _ _ hle
  have hdown := f32Down_ne_zero_of_le hle
  rw [f32Magnitude_of_down hdown] at hle ⊢
  have hbound : f32Mantissa w * 100 ≤ 36000 * 2 ^ f32Down w := by
    have hm : (f32Mantissa w : ℚ) ≤ 90 * 2 ^ f32Down w := (div_le_iff₀ (by positivity)).mp hle
    have hm' : f32Mantissa w ≤ 90 * 2 ^ f32Down w := by exact_mod_cast hm
    omega
  have hdiff : 36000 - (f32Mantissa w : ℚ) / 2 ^ f32Down w * 100 =
      ((36000 * 2 ^ f32Down w - f32Mantissa w * 100 : ℕ) : ℚ) / 2 ^ f32Down w := by
    push_cast [Nat.cast_sub hbound]
    field_simp
  rw [hdiff, rnd_div_two_pow _ (Nat.pos_of_ne_zero hdown)]
  exact ⟨Nat.pos_of_ne_zero hdown, rfl⟩

/-! ### NaN operands -/

/-- Settles O28: the fault of a NaN operand, for each real form. -/
theorem naNOperandsFaultBeforeTheSink : Obligations.NaNOperandsFaultBeforeTheSink := by
  intro s w hw
  have hnan : (f32Val w).isNone = true := Option.isNone_iff_eq_none.mpr hw
  exact ⟨⟨_, exec_nan (i := .setPanPositionDeg w) rfl hnan s⟩,
    ⟨_, exec_nan (i := .setTiltPositionDeg w) rfl hnan s⟩,
    ⟨_, exec_nan (i := .setZoomPositionRatio w) rfl hnan s⟩⟩

end Sys2Proof.Machine

/-! PROOFS. The statement of 41_bitfield_packer.md: the bits of a packed pair, and the flags read
back from them. -/

namespace Sys2Proof.Machine

/-- A flag's mask shows at a bit when the flag is in the set and the mask has that bit (R101). -/
theorem getLsbD_maskIf (present : Bool) (mask : Byte) (i : Nat) :
    (maskIf present mask).getLsbD i = (present && mask.getLsbD i) := by
  cases present <;> simp [maskIf]

/-- The masks of Command-1 are distinct powers of two, so each bit is one flag or, at the reserved
bits 5 and 6, none (R51, R101). -/
theorem packCommand1_bits (f : CommandFlags) :
    (packCommand1 f).getLsbD 0 = f.focusNear ∧ (packCommand1 f).getLsbD 1 = f.irisOpen ∧
    (packCommand1 f).getLsbD 2 = f.irisClose ∧ (packCommand1 f).getLsbD 3 = f.cameraOnOff ∧
    (packCommand1 f).getLsbD 4 = f.autoManualScan ∧ (packCommand1 f).getLsbD 5 = false ∧
    (packCommand1 f).getLsbD 6 = false ∧ (packCommand1 f).getLsbD 7 = f.sense := by
  simp only [packCommand1, BitVec.getLsbD_or, getLsbD_maskIf]
  simp

/-- The masks of Command-2 are distinct powers of two, so each bit is one flag or, at bit 0,
none (R52, R101). -/
theorem packCommand2_bits (f : CommandFlags) :
    (packCommand2 f).getLsbD 0 = false ∧ (packCommand2 f).getLsbD 1 = f.right ∧
    (packCommand2 f).getLsbD 2 = f.left ∧ (packCommand2 f).getLsbD 3 = f.up ∧
    (packCommand2 f).getLsbD 4 = f.down ∧ (packCommand2 f).getLsbD 5 = f.zoomTele ∧
    (packCommand2 f).getLsbD 6 = f.zoomWide ∧ (packCommand2 f).getLsbD 7 = f.focusFar := by
  simp only [packCommand2, BitVec.getLsbD_or, getLsbD_maskIf]
  simp

/-- The flag set read off a pair of command bytes, each flag at its bit of R100. -/
def unpack (c : Byte × Byte) : CommandFlags where
  focusNear := c.1.getLsbD 0
  irisOpen := c.1.getLsbD 1
  irisClose := c.1.getLsbD 2
  cameraOnOff := c.1.getLsbD 3
  autoManualScan := c.1.getLsbD 4
  sense := c.1.getLsbD 7
  right := c.2.getLsbD 1
  left := c.2.getLsbD 2
  up := c.2.getLsbD 3
  down := c.2.getLsbD 4
  zoomTele := c.2.getLsbD 5
  zoomWide := c.2.getLsbD 6
  focusFar := c.2.getLsbD 7

/-- Reading back what was packed gives the same set. -/
theorem unpack_leftInverse_pack : Function.LeftInverse unpack pack := fun f => by
  simp only [unpack, pack, packCommand1_bits f, packCommand2_bits f]

/-- Settles O6: the bits of the two bytes, and `unpack` as a left inverse of `pack`. -/
theorem packerSetsExactlyTheNamedBits : Obligations.PackerSetsExactlyTheNamedBits := by
  refine ⟨fun f => ?_, fun _ _ h => unpack_leftInverse_pack.injective h⟩
  obtain ⟨hnear, hopen, hclose, hcamera, hscan, hbit5, hbit6, hsense⟩ := packCommand1_bits f
  exact ⟨hnear, hopen, hclose, hcamera, hscan, hbit5, hbit6, hsense, packCommand2_bits f⟩

end Sys2Proof.Machine

/-! PROOFS. The statements of 42_frame_builder_checksum.md: the frame the builder leaves in FB, and
the accumulator over its bytes. -/

namespace Sys2Proof.Machine

/-! ### The Frame Builder -/

/-- Settles O7: the seven fields of the built frame, read as bytes. -/
theorem frameBuilderBuildsTheChecksummedFrame :
    Obligations.FrameBuilderBuildsTheChecksummedFrame := by
  intro s c1 c2 d1 d2
  refine ⟨?_, _, buildFrame_frame c1 c2 d1 d2 s⟩
  rw [buildFrame_fb, frameBytes_build]

/-! ### The Checksum -/

/-- Two additions to ACC can be exchanged: addition modulo 256 is associative and commutative
(R114). -/
theorem addToAcc_rightCommutative : RightCommutative addToAcc where
  right_comm t b c := congrArg (fun a => { t with acc := a }) (add_right_comm t.acc b c)

/-- The accumulation is the same in whatever order the five bytes are added (R114). -/
theorem foldl_addToAcc_eq_accumulate (t : Transient) (bytes : List Byte)
    (h : bytes.Perm [t.fb.address, t.fb.command1, t.fb.command2, t.fb.data1, t.fb.data2]) :
    bytes.foldl addToAcc { t with acc := 0#8 } = accumulate t :=
  have := addToAcc_rightCommutative
  h.foldl_eq _

/-- ACC after the accumulation, as arithmetic on numbers (R113). -/
theorem accumulate_acc_toNat (t : Transient) :
    (accumulate t).acc.toNat =
      (t.fb.address.toNat + t.fb.command1.toNat + t.fb.command2.toNat + t.fb.data1.toNat
        + t.fb.data2.toNat) % 256 := by
  simp [accumulate_eq, BitVec.toNat_add]

/-- The accumulation leaves FB alone. -/
theorem accumulate_fb (t : Transient) : (accumulate t).fb = t.fb := by
  rw [accumulate_eq]

/-- Settles O8: exchanging additions turns any order into that of the accumulation, whose result
is the sum. -/
theorem accumulatorIsTheSumInAnyOrder : Obligations.AccumulatorIsTheSumInAnyOrder :=
  fun t bytes h =>
    ⟨congrArg Transient.acc (foldl_addToAcc_eq_accumulate t bytes h), accumulate_acc_toNat t,
      accumulate_fb t⟩

end Sys2Proof.Machine

/-! PROOFS. The statements of 43_motion_ops.md: each motion command hands off the frame of its
flags and speeds, and completes. -/

namespace Sys2Proof.Machine

/-- A command in the bitfield convention, with an answer ready, delivers the frame of its packed
flags and its two data bytes (R53, R55, R116). -/
theorem exec_delivers_of_sendFlags {i : Instr} {s : State} {a : SinkAnswer}
    {rest : List SinkAnswer} (hsink : s.sinkPresent = true) (hans : s.answers = a :: rest)
    {f : CommandFlags} {d1 d2 : Byte} (hexec : exec i s = .next (s.sendFlags f d1 d2))
    {c1 c2 n1 n2 : ℕ} (hc1 : (pack f).1.toNat = c1) (hc2 : (pack f).2.toNat = c2)
    (hd1 : d1.toNat = n1) (hd2 : d2.toNat = n2) :
    ∃ tr, exec i s = .next (s.delivered (frameOf s.addr c1 c2 n1 n2) a rest tr) := by
  subst hc1 hc2 hd1 hd2
  obtain ⟨tr, h⟩ := sendFrame_answered (pack f).1 (pack f).2 d1 d2 s a rest hsink hans
  exact ⟨tr, hexec.trans (congrArg _ h)⟩

/-- The clamped speed as a number (R81). -/
theorem speed6_toNat (v : Byte) : (speed6 v).toNat = min v.toNat 0x3F :=
  satU_toNat v.toNat (by decide : Config.speedMax < 2 ^ 8)

/-- Settles O19: one flag, and the clamped speed in the data byte of its axis. -/
theorem singleAxisMovesDeliverTheirFrames : Obligations.SingleAxisMovesDeliverTheirFrames := by
  intro s v a rest hsink hans
  have hv := speed6_toNat v
  exact ⟨exec_delivers_of_sendFlags hsink hans (f := { left := true }) rfl rfl rfl hv rfl,
    exec_delivers_of_sendFlags hsink hans (f := { right := true }) rfl rfl rfl hv rfl,
    exec_delivers_of_sendFlags hsink hans (f := { up := true }) rfl rfl rfl rfl hv,
    exec_delivers_of_sendFlags hsink hans (f := { down := true }) rfl rfl rfl rfl hv⟩

/-- Settles O20: the flags of both axes, and the one clamped speed in both data bytes. -/
theorem combinedMovesDeliverTheirFrames : Obligations.CombinedMovesDeliverTheirFrames := by
  intro s v a rest hsink hans
  have hv := speed6_toNat v
  exact ⟨
    exec_delivers_of_sendFlags hsink hans (f := { left := true, up := true }) rfl rfl rfl hv hv,
    exec_delivers_of_sendFlags hsink hans (f := { right := true, up := true }) rfl rfl rfl hv hv,
    exec_delivers_of_sendFlags hsink hans (f := { left := true, down := true }) rfl rfl rfl hv hv,
    exec_delivers_of_sendFlags hsink hans (f := { right := true, down := true }) rfl rfl rfl hv hv⟩

/-- Settles O18: the empty flag set packs to the zero pair (R103). -/
theorem stopMotionDeliversTheNeutralFrame : Obligations.StopMotionDeliversTheNeutralFrame :=
  fun _ _ _ hsink hans => exec_delivers_of_sendFlags hsink hans (f := {}) rfl rfl rfl rfl rfl

end Sys2Proof.Machine

/-! PROOFS. The statement of 44_lens_ops.md: each lens command hands off the frame of its one flag,
and completes. -/

namespace Sys2Proof.Machine

/-- Settles O21: one flag each, in Command-1 for FocusNear, IrisOpen and IrisClose and in Command-2
for the others (R100), and no data. -/
theorem lensCommandsDeliverTheirFrames : Obligations.LensCommandsDeliverTheirFrames := by
  intro s a rest hsink hans
  exact ⟨exec_delivers_of_sendFlags hsink hans (f := { zoomTele := true }) rfl rfl rfl rfl rfl,
    exec_delivers_of_sendFlags hsink hans (f := { zoomWide := true }) rfl rfl rfl rfl rfl,
    exec_delivers_of_sendFlags hsink hans (f := { focusNear := true }) rfl rfl rfl rfl rfl,
    exec_delivers_of_sendFlags hsink hans (f := { focusFar := true }) rfl rfl rfl rfl rfl,
    exec_delivers_of_sendFlags hsink hans (f := { irisOpen := true }) rfl rfl rfl rfl rfl,
    exec_delivers_of_sendFlags hsink hans (f := { irisClose := true }) rfl rfl rfl rfl rfl⟩

end Sys2Proof.Machine

/-! PROOFS. The statement of 45_preset_ops.md: each preset command hands off the frame of its opcode
and clamped id, and completes. -/

namespace Sys2Proof.Machine

/-- A command in the opcode convention, with an answer ready, delivers the frame of its opcode and
of the two bytes of its payload, Command-1 zero (R54, R56, R116). -/
theorem exec_delivers_of_sendOpcode {i : Instr} {s : State} {a : SinkAnswer}
    {rest : List SinkAnswer} (hsink : s.sinkPresent = true) (hans : s.answers = a :: rest)
    {opcode : Byte} {u : BitVec 16} (hexec : exec i s = .next (s.sendOpcode opcode u))
    {c2 n1 n2 : ℕ} (hc2 : opcode.toNat = c2) (hd1 : u.toNat / 256 = n1)
    (hd2 : u.toNat % 256 = n2) :
    ∃ tr, exec i s = .next (s.delivered (frameOf s.addr 0x00 c2 n1 n2) a rest tr) := by
  subst hc2 hd1 hd2
  obtain ⟨tr, h⟩ := sendFrame_answered 0x00#8 opcode (msb u) (lsb u) s a rest hsink hans
  rw [msb_toNat, lsb_toNat] at h
  exact ⟨tr, hexec.trans (congrArg _ h)⟩

/-- The clamped preset id as a number (R89). -/
theorem preset8_toNat (id : Arg) : (preset8 id).toNat = min id.toNat 255 :=
  satU_toNat id.toNat (by decide : Config.presetMax < 2 ^ 8)

/-- A byte as a payload has its upper half zero (R56). -/
theorem setWidth_byte_div (b : Byte) : (b.setWidth 16).toNat / 256 = 0 := by
  rw [BitVec.toNat_setWidth_of_le (by decide), Nat.div_eq_of_lt b.isLt]

/-- A byte as a payload is its lower half (R56). -/
theorem setWidth_byte_mod (b : Byte) : (b.setWidth 16).toNat % 256 = b.toNat := by
  rw [BitVec.toNat_setWidth_of_le (by decide), Nat.mod_eq_of_lt b.isLt]

/-- Settles O22: one opcode each, and the clamped id, which fits in the payload's lower byte. -/
theorem presetCommandsDeliverTheirFrames : Obligations.PresetCommandsDeliverTheirFrames := by
  intro s id a rest hsink hans
  have hd1 := setWidth_byte_div (preset8 id)
  have hd2 := (setWidth_byte_mod (preset8 id)).trans (preset8_toNat id)
  exact ⟨exec_delivers_of_sendOpcode hsink hans (opcode := 0x03#8) rfl rfl hd1 hd2,
    exec_delivers_of_sendOpcode hsink hans (opcode := 0x05#8) rfl rfl hd1 hd2,
    exec_delivers_of_sendOpcode hsink hans (opcode := 0x07#8) rfl rfl hd1 hd2⟩

end Sys2Proof.Machine

/-! PROOFS. The statements of 46_position_ops.md: each position setter hands off the frame of its
opcode and position, and completes. -/

namespace Sys2Proof.Machine

/-- A position setter, with an answer ready, delivers the frame of its opcode and of the position
big-endian: every position fits in the payload (R56, R31). -/
theorem exec_delivers_of_position {i : Instr} {s : State} {a : SinkAnswer}
    {rest : List SinkAnswer} (hsink : s.sinkPresent = true) (hans : s.answers = a :: rest)
    {opcode : Byte} {n : ℕ} (hexec : exec i s = .next (s.sendOpcode opcode (payload n)))
    {c2 : ℕ} (hc2 : opcode.toNat = c2) (hn : n ≤ 65535) :
    ∃ tr, exec i s =
      .next (s.delivered (frameOf s.addr 0x00 c2 (n / 256) (n % 256)) a rest tr) := by
  have hpay : (payload n).toNat = n := payload_toNat n (by omega)
  exact exec_delivers_of_sendOpcode hsink hans hexec hc2 (by rw [hpay]) (by rw [hpay])

/-- A real form with an operand that is no NaN sends the scaled position, which the second clamp
keeps (R94). -/
theorem sendReal_of_kept {w : Arg} {x : ExtReal} (hw : f32Val w = some x) (opcode : Byte)
    {units : ExtReal → Nat} {sat : Nat → Nat} (s : State) (hkept : sat (units x) = units x) :
    s.sendReal opcode (fun v => sat (units v)) w = s.sendOpcode opcode (payload (units x)) := by
  simp only [State.sendReal, hw, hkept]

/-- Settles O23: one opcode each, and the saturated position, which fits in the payload. -/
theorem unitPositionSettersDeliverTheirFrames :
    Obligations.UnitPositionSettersDeliverTheirFrames := by
  intro s n a rest hsink hans
  have hpt : min n.toNat 35999 ≤ 65535 := (Nat.min_le_right _ _).trans (by decide)
  have hz : min n.toNat 65535 ≤ 65535 := Nat.min_le_right _ _
  exact ⟨exec_delivers_of_position hsink hans (opcode := 0x4B#8) rfl rfl hpt,
    exec_delivers_of_position hsink hans (opcode := 0x4D#8) rfl rfl hpt,
    exec_delivers_of_position hsink hans (opcode := 0x4F#8) rfl rfl hz⟩

/-- Settles O24: one opcode each, and the scaled position, which the second clamp keeps and which
fits in the payload. -/
theorem realPositionSettersDeliverTheirFrames :
    Obligations.RealPositionSettersDeliverTheirFrames := by
  intro s w x a rest hsink hans hw
  obtain ⟨keptPan, keptTilt, keptZoom⟩ := secondClampChangesNothing x
  have sendPan := sendReal_of_kept hw 0x4B#8 s keptPan
  have sendTilt := sendReal_of_kept hw 0x4D#8 s keptTilt
  have sendZoom := sendReal_of_kept hw 0x4F#8 s keptZoom
  have hpan := (panUnits_le x).trans (by decide : 35999 ≤ 65535)
  have htilt := (tiltUnits_le x).trans (by decide : 35999 ≤ 65535)
  exact ⟨exec_delivers_of_position hsink hans (congrArg _ sendPan) rfl hpan,
    exec_delivers_of_position hsink hans (congrArg _ sendTilt) rfl htilt,
    exec_delivers_of_position hsink hans (congrArg _ sendZoom) rfl (zoomUnits_le x)⟩

end Sys2Proof.Machine

/-! PROOFS. The statement of 47_query_ops.md: each query hands off the frame of its opcode, and
completes. -/

namespace Sys2Proof.Machine

/-- Settles O25: one opcode each, and a zero payload (R169); the hand-off's answer completes the
query, with no reply awaited (R173). -/
theorem queriesDeliverTheirFrames : Obligations.QueriesDeliverTheirFrames := by
  intro s a rest hsink hans
  exact ⟨exec_delivers_of_sendOpcode hsink hans (opcode := 0x51#8) rfl rfl rfl rfl,
    exec_delivers_of_sendOpcode hsink hans (opcode := 0x53#8) rfl rfl rfl rfl,
    exec_delivers_of_sendOpcode hsink hans (opcode := 0x55#8) rfl rfl rfl rfl⟩

end Sys2Proof.Machine

/-! PROOFS. The statements of 48_raw_passthrough.md: what `sendRaw` hands off and refuses, and how
its operand comes to it. With them, the turns at which the block leaves the step to the host. -/

namespace Sys2Proof.Machine

/-! ### The command -/

/-- Settles O26: `sendRaw` is one `emit` of its operand. -/
theorem sendRawDeliversItsBytesUnchanged : Obligations.SendRawDeliversItsBytesUnchanged := by
  intro s r a rest hsink hans hlen
  rw [exec_sendRaw, if_pos hlen, emit_answered r s a rest hsink hans]
  exact ⟨_, rfl⟩

/-- The one ill-formed command is a `sendRaw` with an operand above `RAW_MAX` (R178). -/
theorem wellFormed_eq_false_iff (i : Instr) :
    i.wellFormed = false ↔ ∃ bytes, i = .sendRaw bytes ∧ Config.rawMax < bytes.length := by
  cases i <;> simp [Instr.wellFormed]

/-- Settles O31, by the ways a command can end: a refusal is that of an ill-formed command. -/
theorem onlyAnOverlongRawOperandIsRefused : Obligations.OnlyAnOverlongRawOperandIsRefused := by
  intro i s r
  rw [← wellFormed_eq_false_iff]
  constructor
  · intro h
    rcases exec_cases i s with ⟨hw, e⟩ | ⟨_, _, e⟩ | ⟨_, _, _, _, e⟩ <;> cases h.symm.trans e
    exact ⟨rfl, hw⟩
  · rintro ⟨rfl, hw⟩
    exact exec_illFormed hw s

/-! ### The host's turn -/

/-- A block whose turn is the host's steps to the state that the host's turn gives. -/
theorem step_eq_next_iff_of_hostTurn {s t : State} (hact : s.nextAction = s.clearStatus.hostTurn) :
    step s = .next t ↔ s.clearStatus.hostTurn = .settled t := by
  unfold step
  rw [hact]
  cases e : s.clearStatus.hostTurn with
  | run i u => exact absurd e (hostTurn_ne_run _ u i)
  | settled u => simp
  | refuse r => simp

/-- A `sendRaw` held without its operand leaves the turn to the host (R178). -/
theorem nextAction_of_collecting {s : State} {w : CommandWord} (hho : s.handOff = none)
    (hheld : s.inflight = some w) (hop : opOf w = sendRawOp) (hraw : s.rawIn = []) :
    s.nextAction = s.clearStatus.hostTurn := by
  have hd : decode w none = .error .rawPending := by simp [decode, decodeParts, hop, sendRawOp]
  simp [State.nextAction, State.turn, State.issue, hho, hheld, hraw, hd]

/-- A delivered operand goes behind those that wait on the raw-data channel (R178). -/
theorem step_of_deliverRaw {s : State} {r : List Byte} {rest : List HostEvent}
    (hact : s.nextAction = s.clearStatus.hostTurn) (hev : s.events = .deliverRaw r :: rest) :
    step s = .next { s with statusPort := none, rawIn := s.rawIn ++ [r], events := rest } := by
  rw [step_eq_next_iff_of_hostTurn hact]
  simp [State.hostTurn, State.deliverRaw, State.dropEvent, State.clearStatus, hev]

/-! ### The operand of a held `sendRaw` -/

/-- A held `sendRaw` takes the operand at the head of the channel and runs (R178). -/
theorem step_of_held_operand {s : State} {w : CommandWord} {r : List Byte}
    {more : List (List Byte)} (hho : s.handOff = none) (hheld : s.inflight = some w)
    (hop : opOf w = sendRawOp) (hraw : s.rawIn = r :: more) :
    step s = exec (.sendRaw r) { s with statusPort := none, rawIn := more } := by
  have hact : s.nextAction = .run (.sendRaw r) (s.clearStatus.takeRaw w) := by
    simp [State.nextAction, State.turn, State.issue, hho, hheld, hraw, decode_sendRaw hop]
  simp only [step, hact, takeRaw_of_op_eq_sendRaw hop, State.clearStatus, hraw, List.tail_cons]

/-- Settles O39: with an operand the command runs; without one the turn is the host's, who does
nothing. -/
theorem heldSendRawRunsWhenItsOperandArrives :
    Obligations.HeldSendRawRunsWhenItsOperandArrives := by
  intro s w hho hheld hop
  refine ⟨fun r more hraw => step_of_held_operand hho hheld hop hraw, fun hraw hev => ?_⟩
  rw [step_eq_next_iff_of_hostTurn (nextAction_of_collecting hho hheld hop hraw)]
  exact hostTurn_of_no_events hev

/-- Settles O59: at an idle and at a collecting block the turn is the host's, who delivers; the
held `sendRaw` then has its operand. -/
theorem deliveredOperandWaitsOrRunsTheHeldSendRaw :
    Obligations.DeliveredOperandWaitsOrRunsTheHeldSendRaw := by
  intro s r rest hho hev
  constructor
  · intro hheld hword
    exact step_of_deliverRaw (nextAction_of_idle hho hheld hword) hev
  · intro w hheld hop hraw
    have hstep := step_of_deliverRaw (nextAction_of_collecting hho hheld hop hraw) hev
    rw [hraw, List.nil_append] at hstep
    exact ⟨_, hstep, rfl, step_of_held_operand hho hheld hop rfl⟩

end Sys2Proof.Machine

/-! PROOFS. The statements of 60_exceptions.md: the status codes, and what a step adds to the
record of statuses and hand-offs. -/

namespace Sys2Proof.Machine

/-! ### The status codes -/

/-- The status that a code names; 4 names none, for it does not tell `e` (R180). -/
def statusOfCode (c : BitVec 3) : Option Status :=
  match c.toNat with
  | 0 => some .ok
  | 1 => some .illegalOp
  | 2 => some .illegalOperand
  | 3 => some .sinkAbsent
  | _ => none

/-- A status other than SinkFail is read back from its code. -/
theorem statusOfCode_statusCode {st : Status} (h : ∀ e, st ≠ .sinkFail e) :
    statusOfCode (statusCode st) = some st := by
  cases st
  case sinkFail e => exact absurd rfl (h e)
  all_goals rfl

theorem statusCode_eq_zero_iff (st : Status) : statusCode st = 0#3 ↔ st = .ok := by
  cases st <;> simp [statusCode]

theorem statusCode_eq_four_iff (st : Status) :
    statusCode st = 4#3 ↔ ∃ e, st = .sinkFail e := by
  cases st <;> simp [statusCode]

/-- Equal codes mean equal statuses, but for the indication of SinkFail. -/
theorem eq_or_sinkFail_of_statusCode_eq {st st' : Status} (h : statusCode st = statusCode st') :
    st = st' ∨ ∃ e e', st = .sinkFail e ∧ st' = .sinkFail e' := by
  by_cases h4 : statusCode st = 4#3
  · obtain ⟨e, he⟩ := (statusCode_eq_four_iff st).1 h4
    obtain ⟨e', he'⟩ := (statusCode_eq_four_iff st').1 (h ▸ h4)
    exact .inr ⟨e, e', he, he'⟩
  · have hst : ∀ e, st ≠ .sinkFail e := fun e he => h4 ((statusCode_eq_four_iff st).2 ⟨e, he⟩)
    have hst' : ∀ e, st' ≠ .sinkFail e :=
      fun e he => h4 (h.trans ((statusCode_eq_four_iff st').2 ⟨e, he⟩))
    refine .inl (Option.some.inj ?_)
    rw [← statusOfCode_statusCode hst, ← statusOfCode_statusCode hst', h]

/-- Settles O37: the five codes, their distinctness, and the two that mean a hand-off. -/
theorem statusCodesAreZeroToFour : Obligations.StatusCodesAreZeroToFour := by
  refine ⟨fun st => ?_, fun _ _ => eq_or_sinkFail_of_statusCode_eq, rfl, rfl, rfl, rfl,
    fun _ => rfl, fun st => ?_⟩
  · cases st <;> simp [statusCode]
  · simp only [statusHandedOff, Bool.or_eq_true, decide_eq_true_eq, statusCode_eq_zero_iff,
      statusCode_eq_four_iff]

/-! ### What a step adds to the record -/

/-- From `s` to `t` the record grew by at most one status, which the port presents and which is
SinkAbsent only without a sink, and by at most one hand-off. -/
structure RecordsAtMostOnce (sts : List Status) (seqs : List (List Byte)) (s t : State) :
    Prop where
  one_status : sts.length ≤ 1
  statusLog : t.statusLog = s.statusLog ++ sts
  statusPort : t.statusPort = sts.head?
  absent : .sinkAbsent ∈ sts → s.sinkPresent = false
  one_handOff : seqs.length ≤ 1
  sinkTrace : t.sinkTrace = s.sinkTrace ++ seqs

/-- Nothing is recorded if the port is idle and the record unchanged. -/
theorem RecordsAtMostOnce.nothing {s t : State} (hport : t.statusPort = none)
    (hlog : t.statusLog = s.statusLog) (htrace : t.sinkTrace = s.sinkTrace) :
    RecordsAtMostOnce [] [] s t :=
  ⟨by simp, by simp [hlog], hport, by simp, by simp, by simp [htrace]⟩

/-- A status without a hand-off is recorded alone. -/
theorem RecordsAtMostOnce.status {s t : State} {st : Status} (hport : t.statusPort = some st)
    (hlog : t.statusLog = s.statusLog ++ [st]) (habsent : .sinkAbsent = st → s.sinkPresent = false)
    (htrace : t.sinkTrace = s.sinkTrace) : RecordsAtMostOnce [st] [] s t :=
  ⟨by simp, hlog, hport, by simpa using habsent, by simp, by simp [htrace]⟩

/-- What is recorded from `s` is recorded from a state with the same sink strap and record. -/
theorem RecordsAtMostOnce.congr {sts : List Status} {seqs : List (List Byte)} {s s' t : State}
    (h : RecordsAtMostOnce sts seqs s t) (hsink : s.sinkPresent = s'.sinkPresent)
    (hlog : s.statusLog = s'.statusLog) (htrace : s.sinkTrace = s'.sinkTrace) :
    RecordsAtMostOnce sts seqs s' t :=
  ⟨h.one_status, hlog ▸ h.statusLog, h.statusPort, hsink ▸ h.absent, h.one_handOff,
    htrace ▸ h.sinkTrace⟩

/-- No answer of the sink gives SinkAbsent (R37). -/
theorem sinkAbsent_ne_answerStatus (a : SinkAnswer) : .sinkAbsent ≠ answerStatus a := by
  cases a <;> simp [answerStatus]

/-- The host's turn records nothing. -/
theorem hostTurn_records {s t : State} (hport : s.statusPort = none)
    (h : s.hostTurn = .settled t) : RecordsAtMostOnce [] [] s t := by
  rcases hostTurn_inputs_or_reset h with ⟨_, _, _, _, _, _, rfl⟩ | ⟨_, rfl⟩ | ⟨_, _, rfl⟩
  · exact .nothing hport rfl rfl
  · exact .nothing rfl rfl rfl
  · exact .nothing rfl rfl rfl

/-- A command records a fault, a hand-off that waits, or a hand-off with the answer's status. -/
theorem exec_records {i : Instr} {s t : State} (hport : s.statusPort = none)
    (h : exec i s = .next t) : ∃ sts seqs, RecordsAtMostOnce sts seqs s t := by
  obtain ⟨tr, ⟨_, rfl⟩ | ⟨hs, rfl⟩ | ⟨_, _, seq, rfl⟩ | ⟨_, a, rest, seq, _, rfl⟩⟩ := exec_next h
  · exact ⟨_, _, .status rfl rfl nofun rfl⟩
  · exact ⟨_, _, .status rfl rfl (fun _ => hs) rfl⟩
  · exact ⟨[], [seq], by simp, by simp [State.waiting], hport, by simp, by simp, rfl⟩
  · exact ⟨[answerStatus a], [seq], by simp, rfl, rfl,
      by simp [sinkAbsent_ne_answerStatus], by simp, rfl⟩

@[simp] theorem State.takeRaw_statusPort (w : CommandWord) (s : State) :
    (s.takeRaw w).statusPort = s.statusPort := by rw [takeRaw_frame]
@[simp] theorem State.takeRaw_sinkPresent (w : CommandWord) (s : State) :
    (s.takeRaw w).sinkPresent = s.sinkPresent := by rw [takeRaw_frame]

/-- The issue of a command finds the port idle, and the sink strap and the record as they were. -/
theorem Issues.record {s u : State} {w : CommandWord} (h : Issues s w u) :
    u.statusPort = none ∧ u.sinkPresent = s.sinkPresent ∧ u.statusLog = s.statusLog ∧
      u.sinkTrace = s.sinkTrace := by
  obtain ⟨_, ⟨_, rfl⟩ | ⟨_, _, _, rfl⟩⟩ := h
  · exact ⟨rfl, rfl, rfl, rfl⟩
  · exact ⟨rfl, rfl, rfl, rfl⟩

/-- Every step records at most one status and one hand-off: the host's turn none, the sink's
answer a status, and the issue of a command what the command records. -/
theorem step_records {s t : State} (h : step s = .next t) :
    ∃ sts seqs, RecordsAtMostOnce sts seqs s t := by
  rcases step_cases s with ⟨t', ht, e⟩ | ⟨r, _, e⟩ | ⟨a, rest, _, _, e⟩ | ⟨w, u, hu, hissue⟩
  · cases h.symm.trans e
    exact ⟨_, _, (hostTurn_records rfl ht).congr rfl rfl rfl⟩
  · cases h.symm.trans e
  · cases h.symm.trans e
    exact ⟨_, _, .status rfl rfl (absurd · (sinkAbsent_ne_answerStatus a)) rfl⟩
  · obtain ⟨hport, hsink, hlog, htrace⟩ := hu.record
    rcases hissue with ⟨i, _, e⟩ | ⟨op, _, e⟩ | ⟨_, _, e⟩
    · obtain ⟨sts, seqs, hrec⟩ := exec_records (by simpa using hport) (e.symm.trans h)
      exact ⟨sts, seqs, hrec.congr (by simpa using hsink) (by simpa using hlog)
        (by simpa using htrace)⟩
    · cases h.symm.trans e
      exact ⟨_, _, .status rfl (by simp [hlog]) nofun htrace⟩
    · cases h.symm.trans e
      exact ⟨_, _, .nothing hport hlog htrace⟩

/-- Settles O44: what a step adds to the record. -/
theorem stepPresentsAtMostOneStatusAndHandOff :
    Obligations.StepPresentsAtMostOneStatusAndHandOff := by
  intro s t hstep
  obtain ⟨sts, seqs, h⟩ := step_records hstep
  exact ⟨⟨sts, h.one_status, h.statusLog, h.statusPort⟩, seqs, h.one_handOff, h.sinkTrace⟩

/-- Settles O45: the SinkAbsent of the run is the status that the step adds. -/
theorem runGoesWrongOnlyWithoutASink : Obligations.RunGoesWrongOnlyWithoutASink := by
  intro s t hstep hs ht
  obtain ⟨sts, seqs, h⟩ := step_records hstep
  have hbefore : .sinkAbsent ∉ s.statusLog := by simpa [State.goneWrong] using hs
  have hafter : .sinkAbsent ∈ s.statusLog ++ sts := by
    simpa [State.goneWrong, h.statusLog] using ht
  exact h.absent ((List.mem_append.1 hafter).resolve_left hbefore)

end Sys2Proof.Machine

/-! PROOFS. The statements of 70_reset_and_hazards.md: the state after reset, its assertion and
release, and what does not run under it. -/

namespace Sys2Proof.Machine

/-! ### The state after reset -/

/-- Settles O46, by the values of R211. -/
theorem resetLeavesTheBlockIdle : Obligations.ResetLeavesTheBlockIdle :=
  fun _ _ => ⟨rfl, rfl, rfl, rfl, rfl, rfl⟩

/-- Settles O54: an idle block that has handed nothing off. -/
theorem resetHasTheInvariant : Obligations.ResetHasTheInvariant :=
  fun _ _ => inv_of_idle rfl rfl rfl

/-! ### The reset input -/

/-- An idle block leaves the turn to the host if no word stands at its port, or under reset
(R210, R215). -/
theorem nextAction_of_idle_or_reset {s : State} (hho : s.handOff = none)
    (hheld : s.inflight = none) (hport : s.command = none ∨ s.rst = true) :
    s.nextAction = s.clearStatus.hostTurn := by
  rcases hport with hword | hr
  · exact nextAction_of_idle hho hheld hword
  · cases hword : s.command <;>
      simp [State.nextAction, State.turn, State.whileIdle, hho, hheld, hword, hr]

/-- The host's turn drives the reset input. -/
theorem hostTurn_of_driveReset {s : State} {asserted : Bool} {rest : List HostEvent}
    (hev : s.events = .driveReset asserted :: rest) : s.hostTurn = s.driveReset asserted := by
  simp [State.hostTurn, hev]

/-- Reset asserted at the host's turn, with no answer awaited, drops the command held and leaves
all else but FB, its index and ACC (R210, R216). -/
theorem step_of_assertReset {s : State} {rest : List HostEvent}
    (hact : s.nextAction = s.clearStatus.hostTurn) (hho : s.handOff = none)
    (hev : s.events = .driveReset true :: rest) :
    step s = .next
      { s with
        rst := true
        transient := discard s.transient
        inflight := none
        statusPort := none
        events := rest } := by
  rw [step_eq_next_iff_of_hostTurn hact, hostTurn_of_driveReset (s := s.clearStatus) hev]
  simp [State.driveReset, State.assertReset, State.dropEvent, State.clearStatus, hho, hev]

/-- Settles O58: the turn is the host's, and no command is held. -/
theorem resetAssertedAtAnIdleBlockOnlyHoldsIt :
    Obligations.ResetAssertedAtAnIdleBlockOnlyHoldsIt := by
  intro s rest hho hheld hport hev
  have hstep := step_of_assertReset (nextAction_of_idle_or_reset hho hheld hport) hho hev
  rw [← hheld] at hstep
  exact ⟨_, hstep⟩

/-- Settles O49: the turn of a collecting block is the host's. -/
theorem resetAbandonsACollectingCommand : Obligations.ResetAbandonsACollectingCommand := by
  intro s w rest hho hheld hop hraw hev
  exact ⟨_, step_of_assertReset (nextAction_of_collecting hho hheld hop hraw) hho hev⟩

/-- Settles O50: with a silent sink the turn is the host's, and the hand-off has begun. -/
theorem resetDuringAHandOffIsRefused : Obligations.ResetDuringAHandOffIsRefused := by
  intro s seq rest hho hans hev
  have hturn : s.clearStatus.hostTurn = .refuse .resetDuringHandOff := by
    rw [hostTurn_of_driveReset (s := s.clearStatus) hev]
    simp [State.driveReset, hho]
  simp only [step, nextAction_of_silent (by simp [hho]) hans, hturn]

/-- Settles O47: the turn is the host's, and the release clears the transient state. -/
theorem resetReleaseLatchesTheStrap : Obligations.ResetReleaseLatchesTheStrap := by
  intro s rest hho hheld hr hev
  refine ⟨clearTransient s.transient, ?_, rfl, rfl⟩
  rw [step_eq_next_iff_of_hostTurn (nextAction_of_idle_or_reset hho hheld (.inr hr)),
    hostTurn_of_driveReset (s := s.clearStatus) hev]
  simp [State.driveReset, State.releaseReset, State.dropEvent, State.clearStatus, hho, hheld, hr,
    hev]

/-! ### Under reset -/

/-- Settles O48: the turn is the host's, who accepts no word, hands nothing off and presents no
status. -/
theorem nothingRunsUnderReset : Obligations.NothingRunsUnderReset := by
  intro s t w hho hheld hr hword hstep
  rw [step_eq_next_iff_of_hostTurn (nextAction_of_idle_or_reset hho hheld (.inr hr))] at hstep
  rcases hostTurn_inputs_or_reset hstep with ⟨_, _, _, _, _, hkeep, rfl⟩ | ⟨_, rfl⟩ | ⟨_, _, rfl⟩
  · exact ⟨hkeep w hword, hheld, hho, rfl, rfl⟩
  · exact ⟨hword, rfl, rfl, rfl, rfl⟩
  · exact ⟨hword, rfl, rfl, rfl, rfl⟩

end Sys2Proof.Machine
